-- ==== Sys2Proof/Word.lean ====
section
/-! DEFINITION. The widths of spec/00_scope.md R8 and R11. Every value is unsigned (R8). -/

namespace Sys2Proof

/-- u16: PC, I, stack entries, instruction words. -/
abbrev Word := BitVec 16

/-- u8: a memory byte, a general register, a timer, the `nn` field. -/
abbrev Byte := BitVec 8

/-- u4: the `x`, `y` and `n` fields, WAITREG. -/
abbrev Nibble := BitVec 4

/-- u12: the `nnn` field. -/
abbrev Addr12 := BitVec 12

end Sys2Proof
end

