-- ==== Sys2Proof/Machine/Encoding.lean ====
section
/-! DEFINITION. The fields of an instruction word (spec/00_scope.md R11) and the opcode table's masks and matches
(spec/opcode_table.json). -/

namespace Sys2Proof.Machine

/-- `op = w[15:12]`. -/
def opField (w : Word) : Nibble := w.extractLsb' 12 4

/-- `x = w[11:8]`. -/
def xField (w : Word) : Nibble := w.extractLsb' 8 4

/-- `y = w[7:4]`. -/
def yField (w : Word) : Nibble := w.extractLsb' 4 4

/-- `n = w[3:0]`. -/
def nField (w : Word) : Nibble := w.extractLsb' 0 4

/-- `nn = w[7:0]`. -/
def nnField (w : Word) : Byte := w.extractLsb' 0 8

/-- `nnn = w[11:0]`. -/
def nnnField (w : Word) : Addr12 := w.extractLsb' 0 12

/-- Format `NNN` (spec/30_encoding.md R91). -/
def formatNNN (op : Nibble) (nnn : Addr12) : Word := op ++ nnn

/-- Formats `XNN` and `XF`: the function byte of `XF` stands in the bits of `nn` (R91). -/
def formatXNN (op x : Nibble) (nn : Byte) : Word := op ++ x ++ nn

/-- Formats `XY` and `XYN` (R91). -/
def formatXYN (op x y n : Nibble) : Word := op ++ x ++ y ++ n

/-- The word of two bytes, the first the high byte (big-endian, spec/20_memory.md R65). -/
def wordOfBytes (hi lo : Byte) : Word := hi ++ lo

/-- The byte of a word that lies at the lower address (R65). -/
def hiByte (w : Word) : Byte := w.extractLsb' 8 8

/-- The byte of a word that lies at the higher address (R65). -/
def loByte (w : Word) : Byte := w.extractLsb' 0 8

/-- One row of the opcode table: a word is the row's when `w AND mask = bits`. -/
structure OpcodeRow where
  bits : Word
  mask : Word
  deriving DecidableEq, Repr

/-- Does the word match the row? -/
def rowMatches (w : Word) (r : OpcodeRow) : Bool := w &&& r.mask == r.bits

/-- The 34 rows with a mask of spec/opcode_table.json, in its order. -/
def opcodeRows : List OpcodeRow :=
  [⟨0x00E0, 0xFFFF⟩, ⟨0x00EE, 0xFFFF⟩, ⟨0x1000, 0xF000⟩, ⟨0x2000, 0xF000⟩, ⟨0x3000, 0xF000⟩, ⟨0x4000, 0xF000⟩,
    ⟨0x5000, 0xF000⟩, ⟨0x6000, 0xF000⟩, ⟨0x7000, 0xF000⟩] ++
  [⟨0x8000, 0xF00F⟩, ⟨0x8001, 0xF00F⟩, ⟨0x8002, 0xF00F⟩, ⟨0x8003, 0xF00F⟩, ⟨0x8004, 0xF00F⟩, ⟨0x8005, 0xF00F⟩,
    ⟨0x8006, 0xF00F⟩, ⟨0x8007, 0xF00F⟩, ⟨0x800E, 0xF00F⟩] ++
  [⟨0x9000, 0xF000⟩, ⟨0xA000, 0xF000⟩, ⟨0xB000, 0xF000⟩, ⟨0xC000, 0xF000⟩, ⟨0xD000, 0xF000⟩] ++
  [⟨0xE09E, 0xF0FF⟩, ⟨0xE0A1, 0xF0FF⟩] ++
  [⟨0xF007, 0xF0FF⟩, ⟨0xF00A, 0xF0FF⟩, ⟨0xF015, 0xF0FF⟩, ⟨0xF018, 0xF0FF⟩, ⟨0xF01E, 0xF0FF⟩, ⟨0xF029, 0xF0FF⟩,
    ⟨0xF033, 0xF0FF⟩, ⟨0xF055, 0xF0FF⟩, ⟨0xF065, 0xF0FF⟩]

/-- Is the word one that no row of the table matches, the table's last row "any word matching no row above"? -/
def isUnknownWord (w : Word) : Bool := !opcodeRows.any (rowMatches w)

end Sys2Proof.Machine
end

