-- ==== Sys2Proof/Syntax.lean ====
section
/-! DEFINITION. The instructions: one constructor per row of spec/opcode_table.json (spec/30_encoding.md R94). -/

namespace Sys2Proof

/-- The 34 operations and the decode failure. Fields as in spec/00_scope.md R11: `x`, `y` register numbers,
`nn` an immediate byte, `nnn` a 12-bit address, `n` a nibble. -/
inductive Instr where
  /-- 00E0 `CLS` (R190). -/
  | cls
  /-- 00EE `RET` (R121). -/
  | ret
  /-- 1NNN `JP nnn` (R123). -/
  | jp (nnn : Addr12)
  /-- 2NNN `CALL nnn` (R122). -/
  | call (nnn : Addr12)
  /-- 3XNN `SE Vx, nn` (R124). -/
  | seImm (x : Nibble) (nn : Byte)
  /-- 4XNN `SNE Vx, nn` (R125). -/
  | sneImm (x : Nibble) (nn : Byte)
  /-- 5XYn `SE Vx, Vy` (R126); `n` has no effect (R100) and is kept so that no bit of the word is lost (log 10). -/
  | seReg (x y n : Nibble)
  /-- 6XNN `LD Vx, nn` (R140). -/
  | ldImm (x : Nibble) (nn : Byte)
  /-- 7XNN `ADD Vx, nn` (R141). -/
  | addImm (x : Nibble) (nn : Byte)
  /-- 8XY0 `LD Vx, Vy` (R142). -/
  | ldReg (x y : Nibble)
  /-- 8XY1 `OR Vx, Vy` (R143). -/
  | orReg (x y : Nibble)
  /-- 8XY2 `AND Vx, Vy` (R144). -/
  | andReg (x y : Nibble)
  /-- 8XY3 `XOR Vx, Vy` (R145). -/
  | xorReg (x y : Nibble)
  /-- 8XY4 `ADD Vx, Vy` (R146). -/
  | addReg (x y : Nibble)
  /-- 8XY5 `SUB Vx, Vy` (R147). -/
  | subReg (x y : Nibble)
  /-- 8XY6 `SHR Vx` (R149); `y` has no effect. -/
  | shr (x y : Nibble)
  /-- 8XY7 `SUBN Vx, Vy` (R148). -/
  | subnReg (x y : Nibble)
  /-- 8XYE `SHL Vx` (R150); `y` has no effect. -/
  | shl (x y : Nibble)
  /-- 9XYn `SNE Vx, Vy` (R127); `n` has no effect (R100, log 10). -/
  | sneReg (x y n : Nibble)
  /-- ANNN `LD I, nnn` (R170). -/
  | ldI (nnn : Addr12)
  /-- BNNN `JP V0, nnn` (R128). -/
  | jpV0 (nnn : Addr12)
  /-- CXNN `RND Vx, nn` (R151). -/
  | rnd (x : Nibble) (nn : Byte)
  /-- DXYN `DRW Vx, Vy, n` (R192, R193). -/
  | drw (x y n : Nibble)
  /-- EX9E `SKP Vx` (R210). -/
  | skp (x : Nibble)
  /-- EXA1 `SKNP Vx` (R211). -/
  | sknp (x : Nibble)
  /-- FX07 `LD Vx, DT` (R212). -/
  | ldVxDt (x : Nibble)
  /-- FX0A `LD Vx, K` (R215). -/
  | ldVxK (x : Nibble)
  /-- FX15 `LD DT, Vx` (R213). -/
  | ldDtVx (x : Nibble)
  /-- FX18 `LD ST, Vx` (R214). -/
  | ldStVx (x : Nibble)
  /-- FX1E `ADD I, Vx` (R171). -/
  | addI (x : Nibble)
  /-- FX29 `LD F, Vx` (R172). -/
  | ldF (x : Nibble)
  /-- FX33 `LD B, Vx` (R173). -/
  | ldB (x : Nibble)
  /-- FX55 `LD [I], Vx` (R175). -/
  | dumpRegs (x : Nibble)
  /-- FX65 `LD Vx, [I]` (R176). -/
  | loadRegs (x : Nibble)
  /-- Decode failure (R99): the word that no row of the table matches. -/
  | unknown (w : Word)
  deriving DecidableEq, Repr

end Sys2Proof
end

