-- ==== Sys2Proof/WellFormed.lean ====
section
/-! DEFINITION. Which terms of `Instr` are instructions. The operand types admit exactly the values of their fields, and
every value is legal (spec/30_encoding.md R92), so the one check is that `unknown` holds a word no row matches. -/

namespace Sys2Proof

/-- Well-formedness of an instruction (spec/opcode_table.json, row UNKNOWN). -/
def Instr.wf : Instr → Bool
  | .cls | .ret | .jp _ | .call _ | .seImm _ _ | .sneImm _ _ | .seReg _ _ _ | .ldImm _ _ | .addImm _ _ => true
  | .ldReg _ _ | .orReg _ _ | .andReg _ _ | .xorReg _ _ | .addReg _ _ | .subReg _ _ | .shr _ _ | .subnReg _ _ => true
  | .shl _ _ | .sneReg _ _ _ | .ldI _ | .jpV0 _ | .rnd _ _ | .drw _ _ _ | .skp _ | .sknp _ | .ldVxDt _ => true
  | .ldVxK _ | .ldDtVx _ | .ldStVx _ | .addI _ | .ldF _ | .ldB _ | .dumpRegs _ | .loadRegs _ => true
  | .unknown w => Machine.isUnknownWord w

end Sys2Proof
end

