-- ==== Sys2Proof/Decode.lean ====
section
/-! DEFINITION. The decoder (spec/30_encoding.md R93 to R98, R100), total on words and on bytes, and the encoder
(R91, R94). -/

namespace Sys2Proof

open Machine

/-- Class 0x8: selected by `n` (R96). -/
def decodeClass8 (w : Word) : Instr :=
  let x := xField w
  let y := yField w
  match (nField w).toNat with
  | 0x0 => .ldReg x y
  | 0x1 => .orReg x y
  | 0x2 => .andReg x y
  | 0x3 => .xorReg x y
  | 0x4 => .addReg x y
  | 0x5 => .subReg x y
  | 0x6 => .shr x y
  | 0x7 => .subnReg x y
  | 0xE => .shl x y
  | _ => .unknown w

/-- Class 0xE: selected by `nn` (R97). -/
def decodeClassE (w : Word) : Instr :=
  match (nnField w).toNat with
  | 0x9E => .skp (xField w)
  | 0xA1 => .sknp (xField w)
  | _ => .unknown w

/-- Class 0xF: selected by `nn` (R98). -/
def decodeClassF (w : Word) : Instr :=
  let x := xField w
  match (nnField w).toNat with
  | 0x07 => .ldVxDt x
  | 0x0A => .ldVxK x
  | 0x15 => .ldDtVx x
  | 0x18 => .ldStVx x
  | 0x1E => .addI x
  | 0x29 => .ldF x
  | 0x33 => .ldB x
  | 0x55 => .dumpRegs x
  | 0x65 => .loadRegs x
  | _ => .unknown w

/-- Class 0x0: exactly two words, matched on all 16 bits (R95). -/
def decodeClass0 (w : Word) : Instr :=
  if w = 0x00E0 then .cls else if w = 0x00EE then .ret else .unknown w

/-- `Decode(w)` (R93). Classes 0x5 and 0x9 do not look at `n` (R100). -/
def decode (w : Word) : Instr :=
  match (opField w).toNat with
  | 0x0 => decodeClass0 w
  | 0x1 => .jp (nnnField w)
  | 0x2 => .call (nnnField w)
  | 0x3 => .seImm (xField w) (nnField w)
  | 0x4 => .sneImm (xField w) (nnField w)
  | 0x5 => .seReg (xField w) (yField w) (nField w)
  | 0x6 => .ldImm (xField w) (nnField w)
  | 0x7 => .addImm (xField w) (nnField w)
  | 0x8 => decodeClass8 w
  | 0x9 => .sneReg (xField w) (yField w) (nField w)
  | 0xA => .ldI (nnnField w)
  | 0xB => .jpV0 (nnnField w)
  | 0xC => .rnd (xField w) (nnField w)
  | 0xD => .drw (xField w) (yField w) (nField w)
  | 0xE => decodeClassE w
  | _ => decodeClassF w

/-- The one way a byte string holds no instruction: it is shorter than the two bytes of every instruction (R91). -/
inductive DecodeError where
  /-- Only `len` bytes are left. -/
  | truncated (len : Nat)
  deriving DecidableEq, Repr

/-- The instruction at the head of a byte string, big-endian (spec/20_memory.md R65), and the bytes after it. -/
def decodeBytes : List Byte → Except DecodeError (Instr × List Byte)
  | hi :: lo :: rest => .ok (decode (wordOfBytes hi lo), rest)
  | bs => .error (.truncated bs.length)

/-- The word of an instruction (R91, R94, spec/opcode_table.json). -/
def encode : Instr → Word
  | .cls => 0x00E0
  | .ret => 0x00EE
  | .jp nnn => formatNNN 0x1 nnn
  | .call nnn => formatNNN 0x2 nnn
  | .seImm x nn => formatXNN 0x3 x nn
  | .sneImm x nn => formatXNN 0x4 x nn
  | .seReg x y n => formatXYN 0x5 x y n
  | .ldImm x nn => formatXNN 0x6 x nn
  | .addImm x nn => formatXNN 0x7 x nn
  | .ldReg x y => formatXYN 0x8 x y 0x0
  | .orReg x y => formatXYN 0x8 x y 0x1
  | .andReg x y => formatXYN 0x8 x y 0x2
  | .xorReg x y => formatXYN 0x8 x y 0x3
  | .addReg x y => formatXYN 0x8 x y 0x4
  | .subReg x y => formatXYN 0x8 x y 0x5
  | .shr x y => formatXYN 0x8 x y 0x6
  | .subnReg x y => formatXYN 0x8 x y 0x7
  | .shl x y => formatXYN 0x8 x y 0xE
  | .sneReg x y n => formatXYN 0x9 x y n
  | .ldI nnn => formatNNN 0xA nnn
  | .jpV0 nnn => formatNNN 0xB nnn
  | .rnd x nn => formatXNN 0xC x nn
  | .drw x y n => formatXYN 0xD x y n
  | .skp x => formatXNN 0xE x 0x9E
  | .sknp x => formatXNN 0xE x 0xA1
  | .ldVxDt x => formatXNN 0xF x 0x07
  | .ldVxK x => formatXNN 0xF x 0x0A
  | .ldDtVx x => formatXNN 0xF x 0x15
  | .ldStVx x => formatXNN 0xF x 0x18
  | .addI x => formatXNN 0xF x 0x1E
  | .ldF x => formatXNN 0xF x 0x29
  | .ldB x => formatXNN 0xF x 0x33
  | .dumpRegs x => formatXNN 0xF x 0x55
  | .loadRegs x => formatXNN 0xF x 0x65
  | .unknown w => w

/-- The bytes of an instruction as they lie in memory, the high byte at the lower address (spec/20_memory.md R65). -/
def encodeBytes (i : Instr) : List Byte := [hiByte (encode i), loByte (encode i)]

/-- The word of a number whose bits from `nbits` up read as 0. -/
def tableWord (nbits w : Nat) : Word := BitVec.ofNat 16 (w % 2 ^ nbits)

/-- What the decoder reads from the bytes of an opcode-table word. -/
def decodeTableWord (nbits w : Nat) : Option Instr :=
  match decodeBytes [hiByte (tableWord nbits w), loByte (tableWord nbits w)] with
  | .ok (i, _) => some i
  | .error _ => none

end Sys2Proof
end

