-- ==== Sys2Proof/Config.lean ====
section
/-! DEFINITION. What a configuration fixes (spec/00_scope.md R7, spec/10_state.md R43) and the free value the spec
leaves open (spec/60_exceptions.md R264). The fixed parameters of R7 and the defaults stand in Machine/Params.lean. -/

namespace Sys2Proof

/-- `OOB_POLICY` (spec/20_memory.md R63): what an address of 4096 or more does. -/
inductive OobPolicy where
  /-- Raise `OutOfRange` (the default). -/
  | fault
  /-- Reduce the address modulo 4096. -/
  | wrap
  deriving DecidableEq, Repr

/-- The three configuration arguments of a model (spec/00_scope.md R7). -/
structure Config where
  /-- `OOB_POLICY`. -/
  oobPolicy : OobPolicy
  /-- `DIAG_UNKNOWN`: report decode failures to the host. -/
  diagUnknown : Bool
  /-- The bytes of `FONT_GLYPHS` after the first two, which are fixed at 0xF0, 0x90 (spec/20_memory.md R67). -/
  fontTail : Vector Byte 78
  deriving DecidableEq, Repr

/-- FREE VALUE (log 2): the randomness source's answer to draw number `k` (spec/60_exceptions.md R264).
Nothing constrains it: a claim about a random byte holds for every byte. -/
opaque Config.randByte : Nat → Byte

end Sys2Proof
end

