-- ==== Sys2Proof/Machine/Params.lean ====
section
/-! DEFINITION. The fixed parameters of spec/00_scope.md R7, the defaults of its three arguments, and what memory holds
after reset (spec/20_memory.md R66, R67, spec/70_reset_and_hazards.md R280). -/

namespace Sys2Proof.Machine

/-- `MEM_SIZE`. -/
def memSize : Nat := 4096

/-- `PROG_BASE`: where `load` writes. -/
def progBase : Nat := 0x200

/-- `PROG_MAX`: the longest program `load` takes. -/
def progMax : Nat := 3584

/-- The reset entry point (R280). -/
def resetPc : Word := 0x200

/-- `FONT_BASE` (D4). -/
def fontBase : Nat := 0x050

/-- The size of the font table: 16 glyphs of 5 bytes. -/
def fontSize : Nat := 80

/-- `FONT_GLYPH_BYTES`. -/
def fontGlyphBytes : Nat := 5

/-- The default `FONT_GLYPHS` of R67 after its first two bytes. PRESUMED by the spec itself (G3, D26): log 8. -/
def defaultFontTail : Vector Byte 78 :=
  ⟨(([0x90, 0x90, 0xF0, 0x20, 0x60, 0x20, 0x20, 0x70] : List Byte) ++
  [0xF0, 0x10, 0xF0, 0x80, 0xF0, 0xF0, 0x10, 0xF0, 0x10, 0xF0] ++
  [0x90, 0x90, 0xF0, 0x10, 0x10, 0xF0, 0x80, 0xF0, 0x10, 0xF0] ++
  [0xF0, 0x80, 0xF0, 0x90, 0xF0, 0xF0, 0x10, 0x20, 0x40, 0x40] ++
  [0xF0, 0x90, 0xF0, 0x90, 0xF0, 0xF0, 0x90, 0xF0, 0x10, 0xF0] ++
  [0xF0, 0x90, 0xF0, 0x90, 0x90, 0xE0, 0x90, 0xE0, 0x90, 0xE0] ++
  [0xF0, 0x80, 0x80, 0x80, 0xF0, 0xE0, 0x90, 0x90, 0x90, 0xE0] ++
  [0xF0, 0x80, 0xF0, 0x80, 0xF0, 0xF0, 0x80, 0xF0, 0x80, 0x80]).toArray, by rfl⟩

/-- The defaults of R7: `OOB_POLICY = fault`, `DIAG_UNKNOWN = false`, the conventional font. -/
def defaultConfig : Config := ⟨.fault, false, defaultFontTail⟩

/-- Byte `d` of `FONT_GLYPHS`, d in 0..79: 0xF0, 0x90, then the configured bytes (R67). -/
def fontGlyph (c : Config) (d : Nat) : Byte :=
  if d = 0 then 0xF0 else if d = 1 then 0x90 else c.fontTail.toList.getD (d - 2) 0

/-- The byte at address `a` after reset (R66, R280): what an unlisted address of memory reads as. -/
def resetByte (c : Config) (a : Nat) : Byte :=
  if fontBase ≤ a ∧ a < fontBase + fontSize then fontGlyph c (a - fontBase) else 0

end Sys2Proof.Machine
end

