-- ==== Sys2Proof/Machine/Memory.lean ====
section
/-! DEFINITION. Memory as a list of (address, byte) pairs in canonical form: addresses strictly rising and below 4096,
no entry equal to what the unlisted address reads as (`dflt`). The address rule of spec/20_memory.md R63 and R64. -/

namespace Sys2Proof.Machine

/-- The listed bytes of memory. -/
abbrev Memory := List Host.Cell

/-- Are the entries canonical, with addresses from `lo` up? -/
def Memory.wfFrom (dflt : Nat → Byte) : Nat → Memory → Bool
  | _, [] => true
  | lo, (a, b) :: m => decide (lo ≤ a) && decide (a < memSize) && b != dflt a && Memory.wfFrom dflt (a + 1) m

/-- The canonical form. -/
def Memory.wf (dflt : Nat → Byte) (m : Memory) : Bool := Memory.wfFrom dflt 0 m

/-- The byte at address `a`. -/
def Memory.read (dflt : Nat → Byte) : Memory → Nat → Byte
  | [], a => dflt a
  | (a', b) :: m, a => if a = a' then b else Memory.read dflt m a

/-- The entries without those of one address. -/
def Memory.erase (m : Memory) (a : Nat) : Memory := m.filter fun c => c.1 != a

/-- An entry put in its place in a rising list. -/
def Memory.insert : Memory → Nat → Byte → Memory
  | [], a, b => [(a, b)]
  | (a', b') :: m, a, b => if a < a' then (a, b) :: (a', b') :: m else (a', b') :: Memory.insert m a b

/-- One byte written, keeping the canonical form: a byte equal to what the unlisted address reads as is not listed. -/
def Memory.write (dflt : Nat → Byte) (m : Memory) (a : Nat) (b : Byte) : Memory :=
  if b = dflt a then m.erase a else (m.erase a).insert a b

/-- `Addr(a, kind)` without the fault it raises (R63): the address accessed, or none. -/
def resolve (p : OobPolicy) (a : Nat) : Option Nat :=
  if a < memSize then some a
  else match p with
    | .wrap => some (a % memSize)
    | .fault => none

/-- `Addr` on the `n` addresses from `base` up, all checked before any access; the error is the lowest address that
faults (R64). -/
def resolveRange (p : OobPolicy) : Nat → Nat → Except Nat (List Nat)
  | _, 0 => .ok []
  | base, n + 1 =>
    match resolve p base with
    | none => .error base
    | some a =>
      match resolveRange p (base + 1) n with
      | .error e => .error e
      | .ok as => .ok (a :: as)

end Sys2Proof.Machine
end

