-- ==== Sys2Proof/Machine/State.lean ====
section
/-! DEFINITION. The machine's state (spec/10_state.md R20) as plain data, the ways a step can stop, and the state after
reset (spec/70_reset_and_hazards.md R280, R281). -/

namespace Sys2Proof.Machine

/-- Why a step would stop the machine: EMPTY. Every fault of spec/60_exceptions.md R242 is taken (R241: the record
`FAULT` is written and the machine is in a next state), so nothing raises an outcome `fault` (log 5). -/
inductive Fault where
  deriving DecidableEq, Repr

/-- Why an instruction is refused. -/
inductive Refusal where
  /-- Raised by `exec`'s arm of an instruction that has no meaning yet (safe: the machine stops). No arm does. -/
  | notModelled (mnemonic : String)
  deriving DecidableEq, Repr

/-- The kind of a memory access (spec/20_memory.md R63). -/
inductive AccessKind where
  | fetch
  | read
  | write
  deriving DecidableEq, Repr

/-- The fault causes (spec/60_exceptions.md R242). -/
inductive FaultCause where
  /-- 2NNN with SP = 16. -/
  | stackOverflow
  /-- 00EE with SP = 0. -/
  | stackUnderflow
  /-- A fetch, read or write at an address of 4096 or more under `OOB_POLICY = fault`. -/
  | outOfRange (kind : AccessKind)
  /-- EX9E or EXA1 with V[x] > 15. -/
  | keyIndexOutOfRange
  deriving DecidableEq, Repr

/-- `FAULT` when it is set (spec/10_state.md R41). -/
structure FaultRecord where
  cause : FaultCause
  /-- The PC of the faulting instruction. -/
  pc : Word
  /-- The cause's info value (R242), a natural number: it may exceed 16 bits (log 11). -/
  info : Nat
  deriving DecidableEq, Repr

/-- The display pixels `DISP[x][y]`, x in 0..63, y in 0..31 (spec/10_state.md R42). -/
abbrev Display := Vector (Vector Bool 32) 64

/-- The host operations (spec/10_state.md R45). -/
inductive HostCall where
  | execute
  | tick
  /-- `k` is any number: a `k` above 15 is refused (spec/60_exceptions.md R260). -/
  | setKey (k : Nat) (pressed : Bool)
  | resetKeys
  | clearDrawFlag
  | reset
  /-- Any byte sequence: one longer than 3584 is refused (R260). -/
  | load (bytes : List Byte)
  | observe
  deriving DecidableEq, Repr

/-- What `observe()` returns: the tuple of spec/10_state.md R20. -/
structure Observation where
  mem : List Byte
  v : Vector Byte 16
  i : Word
  pc : Word
  sp : Fin 17
  stack : Vector Word 16
  dt : Byte
  st : Byte
  key : Vector Bool 16
  susp : Bool
  waitReg : Nibble
  draw : Bool
  fault : Option FaultRecord
  disp : Display
  deriving DecidableEq, Repr

/-- What the core gives back to the host (spec/60_exceptions.md R265). -/
inductive HostReply where
  /-- The event of spec/30_encoding.md R99, under `DIAG_UNKNOWN`. -/
  | unknownOpcode (w pc : Word)
  /-- The error of a refused `load` (R260). -/
  | loadRefused (len : Nat)
  /-- The error of a refused `setKey` (R260). -/
  | setKeyRefused (k : Nat)
  /-- The answer of `observe()`. -/
  | observed (o : Observation)
  deriving DecidableEq, Repr

/-- The complete state (spec/10_state.md R20), then the four fields that are the model's own. -/
structure State where
  /-- `MEM`: the bytes that differ from their reset value (R60). -/
  mem : List Host.Cell
  /-- `V[0..15]` (R21). -/
  v : Vector Byte 16
  /-- `I` (R25). -/
  i : Word
  /-- `PC` (R27). -/
  pc : Word
  /-- `SP`, 0..16: the number of live stack entries (R32). -/
  sp : Fin 17
  /-- `STACK[0..15]` (R32). -/
  stack : Vector Word 16
  /-- `DT` (R35). -/
  dt : Byte
  /-- `ST` (R35). -/
  st : Byte
  /-- `KEY[0..15]` (R37). -/
  key : Vector Bool 16
  /-- `SUSP` (R38). -/
  susp : Bool
  /-- `WAITREG` (R38). -/
  waitReg : Nibble
  /-- `DRAW` (R40). -/
  draw : Bool
  /-- `FAULT` (R41). -/
  fault : Option FaultRecord
  /-- `DISP` (R42). -/
  disp : Display
  /-- The model's own: the configuration, which no step changes (R43, log 1). -/
  cfg : Config
  /-- The model's own: how many answers the randomness source has given (log 2). -/
  draws : Nat
  /-- The model's own: the host's pending calls, the next one first; none pending means `execute()` (log 3). -/
  schedule : List HostCall
  /-- The model's own: what the core has given back to the host, newest first (log 4). -/
  outbox : List HostReply
  deriving DecidableEq, Repr

/-- The state after `reset()` and after construction (spec/70_reset_and_hazards.md R280, R281), with the default
configuration and no call pending. -/
def State.reset : State where
  mem := []
  v := Vector.replicate 16 0
  i := 0
  pc := resetPc
  sp := 0
  stack := Vector.replicate 16 0
  dt := 0
  st := 0
  key := Vector.replicate 16 false
  susp := false
  waitReg := 0
  draw := false
  fault := none
  disp := Vector.replicate 64 (Vector.replicate 32 false)
  cfg := defaultConfig
  draws := 0
  schedule := []
  outbox := []

/-- The outcome of a step. -/
abbrev Result := Host.Outcome State Fault Refusal

end Sys2Proof.Machine
end

