-- ==== Sys2Proof/Machine/Ops.lean ====
section
/-! DEFINITION. The named operations over registers, memory and the rest of the state (spec/00_scope.md R10), taking a
fault (spec/60_exceptions.md R241) and the only return from one, reset (R247). -/

namespace Sys2Proof.Machine

/-- The number of VF. -/
def vf : Nibble := 0xF

/-- `V[x]`. -/
def State.getV (s : State) (x : Nibble) : Byte := s.v[x.toNat]'x.isLt

/-- `V[x] <- b`. -/
def State.setV (s : State) (x : Nibble) (b : Byte) : State := { s with v := s.v.set x.toNat b x.isLt }

/-- `I <- w`. -/
def State.setI (s : State) (w : Word) : State := { s with i := w }

/-- `PC <- w`. -/
def State.setPc (s : State) (w : Word) : State := { s with pc := w }

/-- `PC <- (PC + k) mod 2^16` (spec/10_state.md R29). -/
def State.advance (s : State) (k : Word) : State := { s with pc := s.pc + k }

/-- `DT <- b`. -/
def State.setDt (s : State) (b : Byte) : State := { s with dt := b }

/-- `ST <- b`. -/
def State.setSt (s : State) (b : Byte) : State := { s with st := b }

/-- `KEY[k]`. -/
def State.getKey (s : State) (k : Nibble) : Bool := s.key[k.toNat]'k.isLt

/-- `KEY[k] <- p`. -/
def State.setKeyFlag (s : State) (k : Nibble) (p : Bool) : State := { s with key := s.key.set k.toNat p k.isLt }

/-- Every `KEY[k] <- false` (spec/60_exceptions.md R258). -/
def State.clearKeys (s : State) : State := { s with key := Vector.replicate 16 false }

/-- `SUSP <- true; WAITREG <- x` (spec/44_keys_timers.md R215). -/
def State.suspend (s : State) (x : Nibble) : State := { s with susp := true, waitReg := x }

/-- `SUSP <- false` (R216). `WAITREG` keeps its value (log 9). -/
def State.resume (s : State) : State := { s with susp := false }

/-- `DRAW <- b`. -/
def State.setDraw (s : State) (b : Bool) : State := { s with draw := b }

/-- `DISP <- d`. -/
def State.setDisp (s : State) (d : Display) : State := { s with disp := d }

/-- `FAULT <- (cause, PC, info)`, nothing else (spec/60_exceptions.md R241). -/
def State.recordFault (s : State) (c : FaultCause) (info : Nat) : State := { s with fault := some ⟨c, s.pc, info⟩ }

/-- `STACK[SP] <- w; SP <- SP + 1`, for SP below 16 (spec/40_control_flow.md R122). -/
def State.push (s : State) (w : Word) (h : s.sp.val < 16) : State :=
  { s with stack := s.stack.set s.sp.val w h, sp := ⟨s.sp.val + 1, Nat.succ_lt_succ h⟩ }

/-- `SP <- SP - 1`; the entry stays (R121, spec/10_state.md R34). -/
def State.pop (s : State) : State := { s with sp := ⟨s.sp.val - 1, Nat.lt_of_le_of_lt (Nat.sub_le _ _) s.sp.isLt⟩ }

/-- `STACK[SP - 1]`, the top entry where SP is above 0 (spec/10_state.md R32). -/
def State.top (s : State) : Word := s.stack[s.sp.val - 1]'(by have := s.sp.isLt; omega)

/-- What an unlisted address reads as in this state. -/
def State.dflt (s : State) : Nat → Byte := resetByte s.cfg

/-- `MEM[a]`. -/
def State.readByte (s : State) (a : Nat) : Byte := Memory.read s.dflt s.mem a

/-- `MEM[a] <- b`. -/
def State.writeByte (s : State) (a : Nat) (b : Byte) : State := { s with mem := Memory.write s.dflt s.mem a b }

/-- `MEM[a[k]] <- b[k]` for k = 0, 1, ... (spec/42_index_memory.md R174). -/
def State.writeBytes : State → List Nat → List Byte → State
  | s, a :: as, b :: bs => State.writeBytes (s.writeByte a b) as bs
  | s, _, _ => s

/-- `V[k] <- b[k]` from register `k` up (spec/42_index_memory.md R176). -/
def State.setRegsFrom : Nat → List Byte → State → State
  | _, [], s => s
  | k, b :: bs, s => State.setRegsFrom (k + 1) bs (s.setV (BitVec.ofNat 4 k) b)

/-- `V[0] .. V[x]`. -/
def State.regsUpTo (s : State) (x : Nibble) : List Byte :=
  (List.range (x.toNat + 1)).map fun k => s.getV (BitVec.ofNat 4 k)

/-- The next answer of the randomness source (spec/60_exceptions.md R264). FREE VALUE (log 2). -/
def State.randByte (s : State) : Byte := Config.randByte s.draws

/-- One answer of the randomness source is used up. -/
def State.countDraw (s : State) : State := { s with draws := s.draws + 1 }

/-- Something goes back to the host. -/
def State.emit (s : State) (r : HostReply) : State := { s with outbox := r :: s.outbox }

/-- The host's pending calls become `cs`. -/
def State.setSchedule (s : State) (cs : List HostCall) : State := { s with schedule := cs }

/-- The numeric code of a cause (spec/60_exceptions.md R242). -/
def FaultCause.code : FaultCause → Nat
  | .stackOverflow => 1
  | .stackUnderflow => 2
  | .outOfRange .fetch => 3
  | .outOfRange .read => 4
  | .outOfRange .write => 5
  | .keyIndexOutOfRange => 6

/-- `raise F(info)` (spec/60_exceptions.md R241): nothing is written but `FAULT`; PC stays at the instruction. -/
def raiseFault (c : FaultCause) (info : Nat) (s : State) : Result := .next (s.recordFault c info)

/-- `reset()` (spec/70_reset_and_hazards.md R280), the only way out of a fault (R247). The configuration, the
randomness source and the host's side are no state of the core and stay (log 3, log 4). -/
def State.resetCore (s : State) : State :=
  { State.reset with cfg := s.cfg, draws := s.draws, schedule := s.schedule, outbox := s.outbox }

/-- An operation on the `n` bytes from `base` up: every address is checked first, and the lowest one that faults is
reported (spec/20_memory.md R63, R64). -/
def withRange (kind : AccessKind) (base n : Nat) (s : State) (go : List Nat → Result) : Result :=
  match resolveRange s.cfg.oobPolicy base n with
  | .error a => raiseFault (.outOfRange kind) a s
  | .ok as => go as

/-- `Fetch()` (spec/20_memory.md R65): the word at PC, or the address whose fetch faults. -/
def State.fetchWord (s : State) : Except Nat Word :=
  match resolve s.cfg.oobPolicy s.pc.toNat with
  | none => .error s.pc.toNat
  | some a0 =>
    match resolve s.cfg.oobPolicy (s.pc.toNat + 1) with
    | none => .error (s.pc.toNat + 1)
    | some a1 => .ok (wordOfBytes (s.readByte a0) (s.readByte a1))

/-- `PC <- PC + 4` when the condition holds, else `PC + 2` (spec/40_control_flow.md R120). -/
def State.skipIf (s : State) (c : Bool) : State := if c then s.advance 4 else s.advance 2

end Sys2Proof.Machine
end

