-- ==== Sys2Proof/Machine/Flags.lean ====
section
/-! DEFINITION. The flag values of VF (spec/10_state.md R23) and the order of the two writes (spec/41_alu.md R139). -/

namespace Sys2Proof.Machine

/-- A flag as the byte 1 or 0. -/
def flagByte (c : Bool) : Byte := if c then 1 else 0

/-- The carry of 8XY4: the exact sum exceeds 255 (R146). -/
def carryOut (a b : Byte) : Bool := decide (a.toNat + b.toNat > 255)

/-- The no-borrow of 8XY5 and 8XY7: minuend ≥ subtrahend (R147, R148). -/
def noBorrow (minuend subtrahend : Byte) : Bool := decide (minuend.toNat ≥ subtrahend.toNat)

/-- Bit 0, which 8XY6 shifts out (R149). -/
def shiftedOutRight (b : Byte) : Bool := b.getLsbD 0

/-- Bit 7, which 8XYE shifts out (R150). -/
def shiftedOutLeft (b : Byte) : Bool := b.getLsbD 7

/-- The result to `V[x]`, then the flag to `V[F]` (R139). -/
def State.setResultAndFlag (s : State) (x : Nibble) (result : Byte) (flag : Bool) : State :=
  (s.setV x result).setV vf (flagByte flag)

end Sys2Proof.Machine
end

