-- ==== Sys2Proof/Machine/Alu.lean ====
section
/-! DEFINITION. Register loads and ALU (spec/41_alu.md). Every meaning reads its operands from the state before it. -/

namespace Sys2Proof.Machine

/-- 6XNN `LD Vx, nn` (R140). -/
def execLdImm (x : Nibble) (nn : Byte) (s : State) : Result := .next ((s.setV x nn).advance 2)

/-- 7XNN `ADD Vx, nn` (R141): no flag. -/
def execAddImm (x : Nibble) (nn : Byte) (s : State) : Result := .next ((s.setV x (s.getV x + nn)).advance 2)

/-- 8XY0 `LD Vx, Vy` (R142). -/
def execLdReg (x y : Nibble) (s : State) : Result := .next ((s.setV x (s.getV y)).advance 2)

/-- 8XY1 `OR Vx, Vy` (R143): no flag. -/
def execOrReg (x y : Nibble) (s : State) : Result := .next ((s.setV x (s.getV x ||| s.getV y)).advance 2)

/-- 8XY2 `AND Vx, Vy` (R144): no flag. -/
def execAndReg (x y : Nibble) (s : State) : Result := .next ((s.setV x (s.getV x &&& s.getV y)).advance 2)

/-- 8XY3 `XOR Vx, Vy` (R145): no flag. -/
def execXorReg (x y : Nibble) (s : State) : Result := .next ((s.setV x (s.getV x ^^^ s.getV y)).advance 2)

/-- 8XY4 `ADD Vx, Vy` (R146). -/
def execAddReg (x y : Nibble) (s : State) : Result :=
  .next ((s.setResultAndFlag x (s.getV x + s.getV y) (carryOut (s.getV x) (s.getV y))).advance 2)

/-- 8XY5 `SUB Vx, Vy` (R147). -/
def execSubReg (x y : Nibble) (s : State) : Result :=
  .next ((s.setResultAndFlag x (s.getV x - s.getV y) (noBorrow (s.getV x) (s.getV y))).advance 2)

/-- 8XY7 `SUBN Vx, Vy` (R148). -/
def execSubnReg (x y : Nibble) (s : State) : Result :=
  .next ((s.setResultAndFlag x (s.getV y - s.getV x) (noBorrow (s.getV y) (s.getV x))).advance 2)

/-- 8XY6 `SHR Vx` (R149): V[x] in place. -/
def execShr (x : Nibble) (s : State) : Result :=
  .next ((s.setResultAndFlag x (s.getV x >>> 1) (shiftedOutRight (s.getV x))).advance 2)

/-- 8XYE `SHL Vx` (R150): V[x] in place. -/
def execShl (x : Nibble) (s : State) : Result :=
  .next ((s.setResultAndFlag x (s.getV x <<< 1) (shiftedOutLeft (s.getV x))).advance 2)

/-- CXNN `RND Vx, nn` (R151): one answer of the randomness source, whatever `nn` is. -/
def execRnd (x : Nibble) (nn : Byte) (s : State) : Result := .next ((s.countDraw.setV x (s.randByte &&& nn)).advance 2)

end Sys2Proof.Machine
end

