-- ==== Sys2Proof/Machine/Operands.lean ====
section
/-! DEFINITION. Operand forms (spec/30_encoding.md R92) and the values built from them. -/

namespace Sys2Proof.Machine

/-- `zext16(nnn)` (R92). -/
def zext16 (nnn : Addr12) : Word := nnn.setWidth 16

/-- A byte zero-extended to 16 bits. -/
def zextByte (b : Byte) : Word := b.setWidth 16

/-- `FONT_BASE + v * 5`, on the full byte (spec/42_index_memory.md R172). -/
def glyphAddr (v : Byte) : Word := BitVec.ofNat 16 (fontBase + v.toNat * fontGlyphBytes)

/-- The hundreds, tens and units of a byte (spec/42_index_memory.md R173). -/
def bcdDigits (v : Byte) : List Byte :=
  [BitVec.ofNat 8 (v.toNat / 100), BitVec.ofNat 8 (v.toNat / 10 % 10), BitVec.ofNat 8 (v.toNat % 10)]

/-- An operation on the key whose number is a register's value: a number above 15 faults
(spec/44_keys_timers.md R210, R211). -/
def withKey (k : Byte) (s : State) (go : Bool → Result) : Result :=
  if k.toNat > 15 then raiseFault .keyIndexOutOfRange k.toNat s else go (s.getKey (k.setWidth 4))

end Sys2Proof.Machine
end

