-- ==== Sys2Proof/Machine/ControlFlow.lean ====
section
/-! DEFINITION. Control transfer (spec/40_control_flow.md). -/

namespace Sys2Proof.Machine

/-- 00EE `RET` (R121). -/
def execRet (s : State) : Result :=
  if s.sp.val = 0 then raiseFault .stackUnderflow 0 s else .next (s.pop.setPc (s.top + 2))

/-- 1NNN `JP nnn` (R123). -/
def execJp (nnn : Addr12) (s : State) : Result := .next (s.setPc (zext16 nnn))

/-- 2NNN `CALL nnn` (R122): the CALL's own address is pushed. -/
def execCall (nnn : Addr12) (s : State) : Result :=
  if h : s.sp.val < 16 then .next ((s.push s.pc h).setPc (zext16 nnn)) else raiseFault .stackOverflow 16 s

/-- 3XNN `SE Vx, nn` (R124). -/
def execSeImm (x : Nibble) (nn : Byte) (s : State) : Result := .next (s.skipIf (s.getV x == nn))

/-- 4XNN `SNE Vx, nn` (R125). -/
def execSneImm (x : Nibble) (nn : Byte) (s : State) : Result := .next (s.skipIf (s.getV x != nn))

/-- 5XYn `SE Vx, Vy` (R126); `n` has no effect (spec/30_encoding.md R100). -/
def execSeReg (x y : Nibble) (s : State) : Result := .next (s.skipIf (s.getV x == s.getV y))

/-- 9XYn `SNE Vx, Vy` (R127); `n` has no effect (spec/30_encoding.md R100). -/
def execSneReg (x y : Nibble) (s : State) : Result := .next (s.skipIf (s.getV x != s.getV y))

/-- BNNN `JP V0, nnn` (R128). -/
def execJpV0 (nnn : Addr12) (s : State) : Result := .next (s.setPc (zext16 nnn + zextByte (s.getV 0)))

end Sys2Proof.Machine
end

