-- ==== Sys2Proof/Machine/Display.lean ====
section
/-! DEFINITION. The display contract (spec/60_exceptions.md R262), the geometry of a sprite (spec/43_display.md R191)
and the drawing of one with its collision (R192). -/

namespace Sys2Proof.Machine

/-- A pixel's coordinates, already in range (R262). -/
abbrev Pixel := Fin 64 × Fin 32

/-- `Disp.clear()`. -/
def Display.clear : Display := Vector.replicate 64 (Vector.replicate 32 false)

/-- `Disp.get(px, py)`. -/
def Display.get (d : Display) (p : Pixel) : Bool := d[p.1.val][p.2.val]

/-- `Disp.flip(px, py)`. -/
def Display.flip (d : Display) (p : Pixel) : Display := d.set p.1.val (d[p.1.val].set p.2.val (!d[p.1.val][p.2.val]))

/-- The pixel at column offset `c` and row offset `r` of a sprite at `(ox, oy)`, wrapped around both edges (R191). -/
def spritePixel (ox oy r c : Nat) : Pixel := (Fin.ofNat 64 (ox + c), Fin.ofNat 32 (oy + r))

/-- The pixels under the set bits of one row: bit 7 is column offset 0 (R191, spec/00_scope.md R9). -/
def rowPixels (ox oy r : Nat) (row : Byte) : List Pixel :=
  ((List.range 8).filter fun c => row.getLsbD (7 - c)).map (spritePixel ox oy r)

/-- The pixels under the set bits of the rows from row offset `r` down. -/
def spritePixels (ox oy : Nat) : Nat → List Byte → List Pixel
  | _, [] => []
  | r, row :: rows => rowPixels ox oy r row ++ spritePixels ox oy (r + 1) rows

/-- Every pixel of the list flipped in order; the second component tells whether some pixel was set before its flip
(R192). -/
def drawPixels : List Pixel → Display × Bool → Display × Bool
  | [], r => r
  | p :: ps, (d, coll) => drawPixels ps (d.flip p, coll || d.get p)

/-- The display and the collision after drawing the rows at `(ox, oy)` (R192). -/
def drawSprite (ox oy : Nat) (rows : List Byte) (d : Display) : Display × Bool :=
  drawPixels (spritePixels ox oy 0 rows) (d, false)

end Sys2Proof.Machine
end

