-- ==== Sys2Proof/Machine/Draw.lean ====
section
/-! DEFINITION. Display operations (spec/43_display.md). -/

namespace Sys2Proof.Machine

/-- 00E0 `CLS` (R190). -/
def execCls (s : State) : Result := .next (((s.setDisp Display.clear).setDraw true).advance 2)

/-- DXYN `DRW Vx, Vy, n` (R192), DXY0 with no row (R193): the origin and the rows are read before anything is written. -/
def execDrw (x y n : Nibble) (s : State) : Result :=
  withRange .read s.i.toNat n.toNat s fun as =>
    let drawn := drawSprite (s.getV x).toNat (s.getV y).toNat (as.map s.readByte) s.disp
    .next ((((s.setDisp drawn.1).setV vf (flagByte drawn.2)).setDraw true).advance 2)

end Sys2Proof.Machine
end

