-- ==== Sys2Proof/Machine/IndexMemory.lean ====
section
/-! DEFINITION. Index register, font, BCD, register dump and load (spec/42_index_memory.md). -/

namespace Sys2Proof.Machine

/-- ANNN `LD I, nnn` (R170). -/
def execLdI (nnn : Addr12) (s : State) : Result := .next ((s.setI (zext16 nnn)).advance 2)

/-- FX1E `ADD I, Vx` (R171): modulo 2^16, no flag. -/
def execAddI (x : Nibble) (s : State) : Result := .next ((s.setI (s.i + zextByte (s.getV x))).advance 2)

/-- FX29 `LD F, Vx` (R172). -/
def execLdF (x : Nibble) (s : State) : Result := .next ((s.setI (glyphAddr (s.getV x))).advance 2)

/-- FX33 `LD B, Vx` (R173). -/
def execLdB (x : Nibble) (s : State) : Result :=
  withRange .write s.i.toNat 3 s fun as => .next ((s.writeBytes as (bcdDigits (s.getV x))).advance 2)

/-- FX55 `LD [I], Vx` (R175): `I` is unchanged. -/
def execDumpRegs (x : Nibble) (s : State) : Result :=
  withRange .write s.i.toNat (x.toNat + 1) s fun as => .next ((s.writeBytes as (s.regsUpTo x)).advance 2)

/-- FX65 `LD Vx, [I]` (R176): `I` is unchanged. -/
def execLoadRegs (x : Nibble) (s : State) : Result :=
  withRange .read s.i.toNat (x.toNat + 1) s fun as => .next ((State.setRegsFrom 0 (as.map s.readByte) s).advance 2)

end Sys2Proof.Machine
end

