-- ==== Sys2Proof/Machine/KeysTimers.lean ====
section
/-! DEFINITION. Key skips, timer transfers, wait for key (spec/44_keys_timers.md), and the wait's resolution (R216). -/

namespace Sys2Proof.Machine

/-- EX9E `SKP Vx` (R210). -/
def execSkp (x : Nibble) (s : State) : Result := withKey (s.getV x) s fun down => .next (s.skipIf down)

/-- EXA1 `SKNP Vx` (R211). -/
def execSknp (x : Nibble) (s : State) : Result := withKey (s.getV x) s fun down => .next (s.skipIf (!down))

/-- FX07 `LD Vx, DT` (R212). -/
def execLdVxDt (x : Nibble) (s : State) : Result := .next ((s.setV x s.dt).advance 2)

/-- FX15 `LD DT, Vx` (R213). -/
def execLdDtVx (x : Nibble) (s : State) : Result := .next ((s.setDt (s.getV x)).advance 2)

/-- FX18 `LD ST, Vx` (R214). -/
def execLdStVx (x : Nibble) (s : State) : Result := .next ((s.setSt (s.getV x)).advance 2)

/-- FX0A `LD Vx, K` (R215): PC and V[x] wait for the key. -/
def execLdVxK (x : Nibble) (s : State) : Result := .next (s.suspend x)

/-- What `setKey(k, true)` does to a suspended core after it has set `KEY[k]` (R216). -/
def State.resolveWait (s : State) (k : Nibble) : State := ((s.setV s.waitReg (k.setWidth 8)).advance 2).resume

end Sys2Proof.Machine
end

