-- ==== Sys2Proof/Machine/Unknown.lean ====
section
/-! DEFINITION. Decode failure (spec/30_encoding.md R99). -/

namespace Sys2Proof.Machine

/-- `UNKNOWN` (R99): PC + 2, and the event `UnknownOpcode(w, old PC)` when `DIAG_UNKNOWN` is true. -/
def execUnknown (w : Word) (s : State) : Result :=
  .next ((if s.cfg.diagUnknown then s.emit (.unknownOpcode w s.pc) else s).advance 2)

end Sys2Proof.Machine
end

