-- ==== Sys2Proof/Machine/Execute.lean ====
section
/-! DEFINITION. The execute step (spec/30_encoding.md R90). -/

namespace Sys2Proof.Machine

/-- `execute()` (R90): nothing while faulted or suspended; else fetch, decode, perform. -/
def execute (s : State) : Result :=
  if s.fault.isSome then .next s
  else if s.susp then .next s
  else match s.fetchWord with
    | .error a => raiseFault (.outOfRange .fetch) a s
    | .ok w => exec (decode w) s

end Sys2Proof.Machine
end

