-- ==== Sys2Proof/Machine/HostOps.lean ====
section
/-! DEFINITION. The host's operations (spec/10_state.md R45), each one atomic step (spec/00_scope.md R13). They act the
same whether the core runs, is suspended or is faulted (spec/60_exceptions.md R243). -/

namespace Sys2Proof.Machine

/-- A timer one tick later: floored at 0. -/
def tickDown (b : Byte) : Byte := BitVec.ofNat 8 (b.toNat - 1)

/-- `tick()` (spec/60_exceptions.md R255). -/
def State.tick (s : State) : State := (s.setDt (tickDown s.dt)).setSt (tickDown s.st)

/-- `setKey(k, pressed)` for a key number in range (R257). -/
def State.setKey (s : State) (k : Nibble) (pressed : Bool) : State :=
  if pressed && s.susp then (s.setKeyFlag k pressed).resolveWait k else s.setKeyFlag k pressed

/-- `load(bytes)` for a sequence that fits (spec/70_reset_and_hazards.md R283). -/
def State.load (s : State) (bytes : List Byte) : State := s.writeBytes (List.range' progBase bytes.length) bytes

/-- What `observe()` returns: the tuple of spec/10_state.md R20. -/
def State.observation (s : State) : Observation where
  mem := (List.range memSize).map s.readByte
  v := s.v
  i := s.i
  pc := s.pc
  sp := s.sp
  stack := s.stack
  dt := s.dt
  st := s.st
  key := s.key
  susp := s.susp
  waitReg := s.waitReg
  draw := s.draw
  fault := s.fault
  disp := s.disp

/-- One host call. A call that breaks the contract is refused: an error to the host and no other effect (R260). -/
def hostCall (c : HostCall) (s : State) : Result :=
  match c with
  | .execute => execute s
  | .tick => .next s.tick
  | .setKey k pressed => .next (if k > 15 then s.emit (.setKeyRefused k) else s.setKey (BitVec.ofNat 4 k) pressed)
  | .resetKeys => .next s.clearKeys
  | .clearDrawFlag => .next (s.setDraw false)
  | .reset => .next s.resetCore
  | .load bytes => .next (if bytes.length > progMax then s.emit (.loadRefused bytes.length) else s.load bytes)
  | .observe => .next (s.emit (.observed s.observation))

/-- Where the two bytes of a word at PC lie, and PC itself, or PC moved to 0x200 where the fetch at PC would fault. -/
def State.fetchHome (s : State) : State :=
  match s.fetchWord with
  | .error _ => s.setPc resetPc
  | .ok _ => s

/-- A word stored where the next fetch reads it. -/
def State.storeFetched (s : State) (w : Word) : State :=
  (s.writeByte (s.pc.toNat % memSize) (hiByte w)).writeByte ((s.pc.toNat + 1) % memSize) (loByte w)

/-- The core ready to execute next: no call pending, no fault, no suspension. -/
def State.ready (s : State) : State := { s with schedule := [], fault := none, susp := false }

end Sys2Proof.Machine
end

