-- ==== Sys2Proof/Machine/Step.lean ====
section
/-! DEFINITION. One step: one call of the host into the core (spec/00_scope.md R13). -/

namespace Sys2Proof.Machine

/-- The host's next pending call, or `execute()` where none is pending (log 3). -/
def step (s : State) : Host.Outcome State Fault Refusal :=
  match s.schedule with
  | [] => execute s
  | c :: rest => hostCall c (s.setSchedule rest)

/-- `s` with an instruction's word stored where `step` fetches next, and nothing in the way of running it (log 6). -/
def State.withFetchWord (s : State) (nbits w : Nat) : State := s.ready.fetchHome.storeFetched (tableWord nbits w)

end Sys2Proof.Machine
end

