-- ==== Sys2Proof/Safety.lean ====
section
/-! DEFINITION. The terms the claims use: the parts of the state, the machine's invariant, the fault table of
spec/60_exceptions.md R242 read as a predicate, which registers an instruction names as destinations, the pixels a
sprite covers, and the parked states of spec/70_reset_and_hazards.md R296. -/

namespace Sys2Proof.Machine

/-- The parts of the state a frame may leave open. -/
inductive Part where
  | mem | v | i | pc | sp | stack | dt | st | key | wait | draw | fault | disp | draws | schedule | outbox
  deriving DecidableEq, Repr

/-- Everything but the listed parts is as before: memory through the read of one byte, registers, keys and pixels one by
one. The configuration is never a part that may change. -/
structure UnchangedBut (ps : List Part) (s t : State) : Prop where
  cfg : t.cfg = s.cfg
  mem : .mem ∉ ps → ∀ a, t.readByte a = s.readByte a
  v : .v ∉ ps → ∀ r, t.getV r = s.getV r
  i : .i ∉ ps → t.i = s.i
  pc : .pc ∉ ps → t.pc = s.pc
  sp : .sp ∉ ps → t.sp = s.sp
  stack : .stack ∉ ps → ∀ k (h : k < 16), t.stack[k] = s.stack[k]
  dt : .dt ∉ ps → t.dt = s.dt
  st : .st ∉ ps → t.st = s.st
  key : .key ∉ ps → ∀ k, t.getKey k = s.getKey k
  wait : .wait ∉ ps → t.susp = s.susp ∧ t.waitReg = s.waitReg
  draw : .draw ∉ ps → t.draw = s.draw
  fault : .fault ∉ ps → t.fault = s.fault
  disp : .disp ∉ ps → ∀ p, t.disp.get p = s.disp.get p
  draws : .draws ∉ ps → t.draws = s.draws
  schedule : .schedule ∉ ps → t.schedule = s.schedule
  outbox : .outbox ∉ ps → t.outbox = s.outbox

/-- The word is the instruction's encoding: the encoder gives the one, the decoder the other
(spec/30_encoding.md R91, R93). -/
def Encoded (i : Instr) (w : Word) : Prop := encode i = w ∧ decode w = i

/-- No address of the `n` bytes from `base` up faults (spec/20_memory.md R63). -/
abbrev Accessible (s : State) (base n : Nat) : Prop := ∀ k < n, resolve s.cfg.oobPolicy (base + k) ≠ none

/-- `a` is the lowest out-of-range address of the `n` from I up, and such addresses fault
(spec/60_exceptions.md R242, codes 4 and 5). -/
abbrev LowestOutOfRange (s : State) (n a : Nat) : Prop :=
  s.cfg.oobPolicy = .fault ∧ 4096 ≤ a ∧ (∃ k < n, a = s.i.toNat + k) ∧ ∀ k < n, 4096 ≤ s.i.toNat + k → a ≤ s.i.toNat + k

/-- The rows of R242 for the instructions: in which state an instruction raises which cause with which info. -/
def Raises (i : Instr) (s : State) (c : FaultCause) (info : Nat) : Prop :=
  match i with
  | .call _ => c = .stackOverflow ∧ s.sp.val = 16 ∧ info = 16
  | .ret => c = .stackUnderflow ∧ s.sp.val = 0 ∧ info = 0
  | .drw _ _ n => c = .outOfRange .read ∧ LowestOutOfRange s n.toNat info
  | .loadRegs x => c = .outOfRange .read ∧ LowestOutOfRange s (x.toNat + 1) info
  | .ldB _ => c = .outOfRange .write ∧ LowestOutOfRange s 3 info
  | .dumpRegs x => c = .outOfRange .write ∧ LowestOutOfRange s (x.toNat + 1) info
  | .skp x | .sknp x => c = .keyIndexOutOfRange ∧ 15 < (s.getV x).toNat ∧ info = (s.getV x).toNat
  | .cls | .jp _ | .seImm _ _ | .sneImm _ _ | .seReg _ _ _ | .ldImm _ _ | .addImm _ _ | .ldReg _ _ | .orReg _ _ => False
  | .andReg _ _ | .xorReg _ _ | .addReg _ _ | .subReg _ _ | .shr _ _ | .subnReg _ _ | .shl _ _ | .sneReg _ _ _ => False
  | .ldI _ | .jpV0 _ | .rnd _ _ | .ldVxDt _ | .ldVxK _ | .ldDtVx _ | .ldStVx _ | .addI _ | .ldF _ | .unknown _ => False

/-- The fetch's row of R242 (code 3): the first of PC, PC + 1 that is 4096 or more. -/
def FetchRaises (s : State) (a : Nat) : Prop :=
  s.cfg.oobPolicy = .fault ∧ (4096 ≤ s.pc.toNat ∧ a = s.pc.toNat ∨ s.pc.toNat = 4095 ∧ a = 4096)

/-- The registers an instruction may write (spec/10_state.md R23 for VF). -/
def writesReg (i : Instr) (r : Nibble) : Bool :=
  match i with
  | .ldImm x _ | .addImm x _ | .ldReg x _ | .orReg x _ | .andReg x _ | .xorReg x _ | .rnd x _ | .ldVxDt x => r == x
  | .addReg x _ | .subReg x _ | .subnReg x _ | .shr x _ | .shl x _ => r == x || r == vf
  | .drw _ _ _ => r == vf
  | .loadRegs x => decide (r.toNat ≤ x.toNat)
  | .cls | .ret | .jp _ | .call _ | .seImm _ _ | .sneImm _ _ | .seReg _ _ _ | .sneReg _ _ _ | .ldI _ | .jpV0 _ => false
  | .skp _ | .sknp _ | .ldVxK _ | .ldDtVx _ | .ldStVx _ | .addI _ | .ldF _ | .ldB _ | .dumpRegs _ | .unknown _ => false

/-- The record fits the state it was raised in, which nothing but reset changes in these respects (R242). -/
def FaultRecord.Fits (r : FaultRecord) (s : State) : Prop :=
  match r.cause with
  | .stackOverflow => s.sp.val = 16 ∧ r.info = 16
  | .stackUnderflow => s.sp.val = 0 ∧ r.info = 0
  | .outOfRange .fetch => FetchRaises s r.info
  | .outOfRange _ => s.cfg.oobPolicy = .fault ∧ 4096 ≤ r.info ∧ s.i.toNat ≤ r.info ∧ r.info ≤ s.i.toNat + 15
  | .keyIndexOutOfRange => 15 < r.info ∧ r.info ≤ 255

/-- The machine's invariant: memory is canonical; a faulted core is not suspended (spec/60_exceptions.md R243), PC still
holds the address of the instruction that faulted (spec/10_state.md R27), and the record is one R242 gives. -/
def State.Inv (s : State) : Prop :=
  Memory.wf s.dflt s.mem = true ∧ ∀ r, s.fault = some r → s.susp = false ∧ r.pc = s.pc ∧ r.Fits s

/-- Some set bit of the `n` rows drawn at `(ox, oy)` falls on the pixel (spec/43_display.md R191). -/
def Covers (ox oy n : Nat) (row : Nat → Byte) (p : Pixel) : Prop :=
  ∃ r < n, ∃ c < 8, (row r).getLsbD (7 - c) = true ∧ p.1.val = (ox + c) % 64 ∧ p.2.val = (oy + r) % 32

/-- The rows of a sprite at I (spec/43_display.md R191). -/
def State.spriteRow (s : State) (r : Nat) : Byte := s.readByte ((s.i.toNat + r) % memSize)

/-- The host calls that can end a key wait: a press of one of the 16 keys, and reset. -/
def HostCall.endsWait : HostCall → Bool
  | .setKey k pressed => pressed && decide (k ≤ 15)
  | .reset => true
  | .execute | .tick | .resetKeys | .clearDrawFlag | .load _ | .observe => false

/-- A parked state (spec/70_reset_and_hazards.md R296). -/
def State.Parked (s : State) : Prop :=
  s.fault.isSome = true ∨ s.susp = true ∨ ∃ w nnn, s.fetchWord = .ok w ∧ decode w = .jp nnn ∧ s.pc = zext16 nnn

end Sys2Proof.Machine
end

