-- ==== Sys2Proof/Certificates/Slice0/Obligations.lean ====
section
/-! DEFINITION. The statements for the provers. Each docstring says which sentence of spec/ the statement formalises, or
which convention of the model (log n: notes/assumptions/n.md) it rests on. -/

open Sys2Proof Sys2Proof.Machine

/-! ## Decoding -/

/-- Words written out bit by bit from spec/30_encoding.md R91 and R93, one or more of each format, and a decode failure,
decode to the instruction they stand for; the first three are the source's own (spec/95_test_vectors.md V1 to V3). -/
def Obligations.SampleWordsDecode : Prop :=
  decode 0b0110101000111100 = .ldImm 0xA 0x3C ∧ decode 0b0111001100000010 = .addImm 3 2 ∧
  decode 0b1101000000010001 = .drw 0 1 1 ∧ decode 0b0000000011100000 = .cls ∧ decode 0b0000000011101110 = .ret ∧
  decode 0b0010001000010000 = .call 0x210 ∧ decode 0b1000001000110110 = .shr 2 3 ∧ decode 0b1001001001010000 = .sneReg 2 5 0 ∧
  decode 0b1011001100000000 = .jpV0 0x300 ∧ decode 0b1110000110100001 = .sknp 1 ∧ decode 0b1111001000001010 = .ldVxK 2 ∧
  decode 0b1111001001100101 = .loadRegs 2 ∧ decode 0b0000000111100000 = .unknown 0x01E0

/-- Decoding the word of a well-formed instruction gives the instruction back, whatever its operands (R91 to R94). -/
def Obligations.DecodeAfterEncodeIsIdentity : Prop := ∀ i : Instr, i.wf = true → decode (encode i) = i

/-- Encoding what a word decodes to gives the word back, and what it decodes to is well-formed: decoding loses no bit,
and every one of the 65536 words is exactly one instruction (R93 "total"). That the bits an operation ignores come back
too rests on their being kept as operands, the model's choice (log 10). -/
def Obligations.EncodeAfterDecodeIsIdentity : Prop := ∀ w : Word, encode (decode w) = w ∧ (decode w).wf = true

/-- The opcode table is unambiguous, and the decoder reports a decode failure for exactly the words no row matches
(spec/opcode_table.json, row UNKNOWN). -/
def Obligations.OpcodeTableDecidesDecodeFailure : Prop :=
  ∀ w : Word, (opcodeRows.filter (rowMatches w)).length ≤ 1 ∧
    (decode w = .unknown w ↔ opcodeRows.filter (rowMatches w) = [])

/-- The four classes with a second level (R95 to R98): which words of each are operations and which are `UNKNOWN`. -/
def Obligations.SecondLevelClassesDecode : Prop :=
  ∀ w : Word,
    (opField w = 0x0 → decode w = if w = 0x00E0 then .cls else if w = 0x00EE then .ret else .unknown w) ∧
    (opField w = 0x8 → (decode w = .unknown w ↔ nField w ∈ [0x8, 0x9, 0xA, 0xB, 0xC, 0xD, 0xF])) ∧
    (opField w = 0xE → (decode w = .unknown w ↔ nnField w ∉ [0x9E, 0xA1])) ∧
    (opField w = 0xF → (decode w = .unknown w ↔ nnField w ∉ [0x07, 0x0A, 0x15, 0x18, 0x1E, 0x29, 0x33, 0x55, 0x65])) ∧
    (opField w ∉ [0x0, 0x8, 0xE, 0xF] → decode w ≠ .unknown w)

/-- R100: 5XYn is SE Vx, Vy and 9XYn is SNE Vx, Vy for every n. -/
def Obligations.LowNibbleOfClasses5And9Ignored : Prop :=
  ∀ (w : Word) (s : State),
    (opField w = 0x5 → exec (decode w) s = exec (.seReg (xField w) (yField w) 0) s) ∧
    (opField w = 0x9 → exec (decode w) s = exec (.sneReg (xField w) (yField w) 0) s)

/-! ## The step -/

/-- R63: the address rule, for every address and both policies; the fault of an access is stated where it is made. -/
def Obligations.AddressRule : Prop :=
  ∀ (p : OobPolicy) (a : Nat), (a < 4096 → resolve p a = some a) ∧
    (4096 ≤ a → resolve .wrap a = some (a % 4096) ∧ resolve .fault a = none)

/-- R65 and R90: a step with no call pending, of a core that is neither faulted nor suspended, reads the big-endian word
at PC and PC + 1, each address through the rule of R63, and is `exec` of what the word decodes to. -/
def Obligations.StepRunsDecodedInstruction : Prop :=
  ∀ (s : State) (a0 a1 : Nat) (w : Word), s.schedule = [] → s.fault = none → s.susp = false →
    resolve s.cfg.oobPolicy s.pc.toNat = some a0 → resolve s.cfg.oobPolicy (s.pc.toNat + 1) = some a1 →
    w.toNat = (s.readByte a0).toNat * 256 + (s.readByte a1).toNat → step s = exec (decode w) s

/-- R242, code 3: a fetch with PC or PC + 1 at 4096 or above faults under `OOB_POLICY = fault`, with the first such
address as info, and nothing but `FAULT` changes. -/
def Obligations.FetchOutOfRangeFaults : Prop :=
  ∀ s : State, s.schedule = [] → s.fault = none → s.susp = false → s.cfg.oobPolicy = .fault →
    (4096 ≤ s.pc.toNat → step s = .next { s with fault := some ⟨.outOfRange .fetch, s.pc, s.pc.toNat⟩ }) ∧
    (s.pc.toNat = 4095 → step s = .next { s with fault := some ⟨.outOfRange .fetch, s.pc, 4096⟩ })

/-- R39 and R243: while suspended or faulted, execute changes nothing. -/
def Obligations.BlockedExecuteChangesNothing : Prop :=
  ∀ s : State, s.fault ≠ none ∨ s.susp = true →
    (s.schedule = [] → step s = .next s) ∧
    (∀ rest, s.schedule = .execute :: rest → step s = .next { s with schedule := rest })

/-- The core does not see the host's schedule (log 3): an `execute()` that the schedule holds does what a step with no
call pending does, and the rest of the schedule is only carried along. -/
def Obligations.ScheduledExecuteIsAStep : Prop :=
  ∀ (s t : State) (rest : List HostCall), step { s with schedule := [] } = .next t →
    step { s with schedule := .execute :: rest } = .next { t with schedule := rest }

/-- R71, R240, R43: a step always ends in a next state (no instruction, call, operand or state stops the machine), and
the parameters, which are not state, are never changed. -/
def Obligations.EveryStepAnswersNext : Prop := ∀ s : State, ∃ t, step s = .next t ∧ t.cfg = s.cfg

/-- Every step, of the core and of the host, keeps the invariant `State.Inv`: memory stays canonical, and the fault
record keeps fitting the state (R27, R242, R243). -/
def Obligations.StepKeepsInv : Prop := ∀ s t : State, s.Inv → step s = .next t → t.Inv

/-- The invariant holds after reset. -/
def Obligations.ResetMeetsInv : Prop := State.reset.Inv

/-- R78, R291: the first two bytes a register dump stores are the word the next fetch at I reads. -/
def Obligations.StoredBytesAreFetched : Prop :=
  ∀ (s t : State) (x : Nibble), x ≠ 0 → Accessible s s.i.toNat (x.toNat + 1) → exec (.dumpRegs x) s = .next t →
    (t.setPc s.i).fetchWord = .ok (wordOfBytes (s.getV 0) (s.getV 1))

/-! ## Faults -/

/-- R240, R241, R242: an instruction raises exactly the faults of the table, each with its cause, PC and info; the state
after is the state before plus `FAULT`; and where the table gives no fault the instruction leaves `FAULT` alone. -/
def Obligations.InstructionFaultsExactlyAsTabled : Prop :=
  ∀ (i : Instr) (s : State),
    (∀ c info, Raises i s c info → exec i s = .next { s with fault := some ⟨c, s.pc, info⟩ }) ∧
    ((∀ c info, ¬ Raises i s c info) → ∃ t, exec i s = .next t ∧ t.fault = s.fault)

/-- R240, R241, R242, R245, over whole steps: from a core without a fault, a fault appears only in an execute step that
is not suspended, with PC as its pc, in a case of the table (the fetch's first), and the step then changes nothing else of
the core's state; and in every such case it does appear. The codes are those of the table. Which step is an execute step
is the model's convention (log 3). -/
def Obligations.FaultsExactlyAsTabled : Prop :=
  (∀ s t : State, s.fault = none → step s = .next t →
    (∀ r, t.fault = some r →
      (s.schedule = [] ∨ s.schedule.head? = some .execute) ∧ s.susp = false ∧ r.pc = s.pc ∧
      t = { s with fault := some r, schedule := s.schedule.tail } ∧
      ((r.cause = .outOfRange .fetch ∧ FetchRaises s r.info) ∨
        ∃ w, s.fetchWord = .ok w ∧ Raises (decode w) s r.cause r.info)) ∧
    (s.schedule = [] ∨ s.schedule.head? = some .execute → s.susp = false →
      (∀ a, FetchRaises s a → t.fault = some ⟨.outOfRange .fetch, s.pc, a⟩) ∧
      ∀ w c info, s.fetchWord = .ok w → Raises (decode w) s c info → t.fault = some ⟨c, s.pc, info⟩)) ∧
  [.stackOverflow, .stackUnderflow, .outOfRange .fetch, .outOfRange .read, .outOfRange .write,
    .keyIndexOutOfRange].map FaultCause.code = [1, 2, 3, 4, 5, 6]

/-- R243, R247: a fault record stays, unchanged, until the host calls reset. -/
def Obligations.OnlyResetClearsFault : Prop :=
  ∀ (s t : State) (r : FaultRecord), s.fault = some r → step s = .next t →
    t.fault = some r ∨ ∃ rest, s.schedule = .reset :: rest

/-! ## Who writes what: rules about all instructions -/

/-- R23: which registers an instruction may write; VF is written by the flag instructions and by those that name it. -/
def Obligations.RegistersWrittenOnlyByDestination : Prop :=
  ∀ (i : Instr) (s t : State) (r : Nibble), exec i s = .next t → writesReg i r = false → t.getV r = s.getV r

/-- R26, R62, R37, R40, R263: I is written by ANNN, FX1E and FX29 only, memory by FX33 and FX55 only, the display and the
draw flag by 00E0 and DXYN only, the keys by no instruction. -/
def Obligations.IndexMemoryDisplayKeysWriters : Prop :=
  ∀ (i : Instr) (s t : State), exec i s = .next t →
    ((∀ nnn, i ≠ .ldI nnn) → (∀ x, i ≠ .addI x ∧ i ≠ .ldF x) → t.i = s.i) ∧
    ((∀ x, i ≠ .ldB x ∧ i ≠ .dumpRegs x) → ∀ a, t.readByte a = s.readByte a) ∧
    (i ≠ .cls → (∀ x y n, i ≠ .drw x y n) → t.draw = s.draw ∧ ∀ p, t.disp.get p = s.disp.get p) ∧
    (∀ k, t.getKey k = s.getKey k)

/-- R33: only 2NNN and 00EE touch the stack and SP, SP stays within 0..16 (by its type), and a CALL with SP = 16 and a
RETURN with SP = 0 fault (the spec's decisions D6, D7). -/
def Obligations.StackTouchedOnlyByCallAndReturn : Prop :=
  ∀ (i : Instr) (s t : State), exec i s = .next t → t.sp.val ≤ 16 ∧
    ((∀ nnn, i ≠ .call nnn) → i ≠ .ret → t.sp = s.sp ∧ t.stack = s.stack) ∧
    ((∃ nnn, i = .call nnn) → s.sp.val = 16 → t = { s with fault := some ⟨.stackOverflow, s.pc, 16⟩ }) ∧
    (i = .ret → s.sp.val = 0 → t = { s with fault := some ⟨.stackUnderflow, s.pc, 0⟩ })

/-- R29: where PC goes, for every operation: unchanged when it faults; the target for the three jumps and calls; the
popped value plus 2 for RET; unchanged for FX0A; plus 2, or 2 or 4 for the six skips, for all others; all modulo 2^16
(the spec's decision D17). -/
def Obligations.PcAdvancesPerOperation : Prop :=
  ∀ (i : Instr) (s t : State), exec i s = .next t →
    ((∃ c info, Raises i s c info) → t.pc = s.pc) ∧
    ((∀ c info, ¬ Raises i s c info) →
      (∀ nnn, i = .jp nnn ∨ i = .call nnn → t.pc.toNat = nnn.toNat) ∧
      (∀ nnn, i = .jpV0 nnn → t.pc.toNat = nnn.toNat + (s.getV 0).toNat) ∧
      (i = .ret → t.pc = s.top + 2) ∧ (∀ x, i = .ldVxK x → t.pc = s.pc) ∧
      ((∀ nnn, i ≠ .jp nnn ∧ i ≠ .call nnn ∧ i ≠ .jpV0 nnn) → i ≠ .ret → (∀ x, i ≠ .ldVxK x) →
        t.pc = s.pc + 2 ∨
          t.pc = s.pc + 4 ∧ ((∃ x nn, i = .seImm x nn ∨ i = .sneImm x nn) ∨
            (∃ x y n, i = .seReg x y n ∨ i = .sneReg x y n) ∨ ∃ x, i = .skp x ∨ i = .sknp x)))

/-- R35, R213: a step makes a timer greater only by executing the instruction that sets it: an execute step (its form:
log 3) of a core that is neither faulted nor suspended, on a word that decodes to FX15 for DT, FX18 for ST. -/
def Obligations.TimersRiseOnlyWhenSet : Prop :=
  ∀ s t : State, step s = .next t → s.dt.toNat < t.dt.toNat ∨ s.st.toNat < t.st.toNat →
    (s.schedule = [] ∨ s.schedule.head? = some .execute) ∧ s.fault = none ∧ s.susp = false ∧
    ∃ w, s.fetchWord = .ok w ∧
      (s.dt.toNat < t.dt.toNat → ∃ x, decode w = .ldDtVx x) ∧ (s.st.toNat < t.st.toNat → ∃ x, decode w = .ldStVx x)

/-! ## Control transfer -/

/-- R123, R128: JP sets PC to the zero-extended 12-bit address, JP V0 to the address plus V0, stored as is; neither
changes anything else; with the encoding of each. -/
def Obligations.Jumps : Prop :=
  ∀ (nnn : Addr12) (s : State),
    Encoded (.jp nnn) (formatNNN 0x1 nnn) ∧ Encoded (.jpV0 nnn) (formatNNN 0xB nnn) ∧
    (∃ t, exec (.jp nnn) s = .next t ∧ t.pc.toNat = nnn.toNat ∧ UnchangedBut [.pc] s t) ∧
    (∃ t, exec (.jpV0 nnn) s = .next t ∧ t.pc.toNat = nnn.toNat + (s.getV 0).toNat ∧ UnchangedBut [.pc] s t)

/-- R122: CALL pushes its own address, or faults with SP = 16 and nothing else changed (the spec's decision D6). -/
def Obligations.CallPushesItsAddress : Prop :=
  ∀ (nnn : Addr12) (s : State), Encoded (.call nnn) (formatNNN 0x2 nnn) ∧
    (∀ h : s.sp.val < 16, ∃ t, exec (.call nnn) s = .next t ∧ t.pc.toNat = nnn.toNat ∧ t.sp.val = s.sp.val + 1 ∧
      t.stack[s.sp.val] = s.pc ∧ (∀ k (hk : k < 16), k ≠ s.sp.val → t.stack[k] = s.stack[k]) ∧
      UnchangedBut [.pc, .sp, .stack] s t) ∧
    (s.sp.val = 16 → exec (.call nnn) s = .next { s with fault := some ⟨.stackOverflow, s.pc, 16⟩ })

/-- R121: RET pops into PC and adds 2, leaving the entry, or faults with SP = 0 and nothing else changed (the spec's
decision D7). -/
def Obligations.ReturnPopsAndAdvances : Prop :=
  ∀ s : State, Encoded .ret 0x00EE ∧
    (∀ (k : Nat) (h : k < 16), s.sp.val = k + 1 → ∃ t, exec .ret s = .next t ∧ t.sp.val = k ∧
      t.pc.toNat = (s.stack[k].toNat + 2) % 65536 ∧ UnchangedBut [.pc, .sp] s t) ∧
    (s.sp.val = 0 → exec .ret s = .next { s with fault := some ⟨.stackUnderflow, s.pc, 0⟩ })

/-- R121, R122: a RET executed right after a CALL comes back to the instruction after the CALL, with SP as it was; only
PC and the stack entry pushed, which keeps the CALL's address, differ. -/
def Obligations.ReturnUndoesCall : Prop :=
  ∀ (nnn : Addr12) (s : State) (_ : s.sp.val < 16), ∃ t u, exec (.call nnn) s = .next t ∧ exec .ret t = .next u ∧
    u.pc = s.pc + 2 ∧ u.sp = s.sp ∧ u.stack[s.sp.val] = s.pc ∧
    (∀ k (h : k < 16), k ≠ s.sp.val → u.stack[k] = s.stack[k]) ∧ UnchangedBut [.pc, .stack] s u

/-- R124 to R127: the four skips, on an immediate `b` or on a second register holding `b`, for every low nibble (the spec's
decision D13): 4 when the condition holds, else 2, modulo 2^16; nothing else changes; with their encodings. -/
def Obligations.ConditionalSkips : Prop :=
  (∀ (x y n : Nibble) (nn : Byte), Encoded (.seImm x nn) (formatXNN 0x3 x nn) ∧
    Encoded (.sneImm x nn) (formatXNN 0x4 x nn) ∧ Encoded (.seReg x y n) (formatXYN 0x5 x y n) ∧
    Encoded (.sneReg x y n) (formatXYN 0x9 x y n)) ∧
  ∀ (i : Instr) (x : Nibble) (b : Byte) (s : State),
    ((i = .seImm x b ∨ ∃ y n, i = .seReg x y n ∧ b = s.getV y) → ∃ t, exec i s = .next t ∧
      t.pc.toNat = (s.pc.toNat + if (s.getV x).toNat = b.toNat then 4 else 2) % 65536 ∧ UnchangedBut [.pc] s t) ∧
    ((i = .sneImm x b ∨ ∃ y n, i = .sneReg x y n ∧ b = s.getV y) → ∃ t, exec i s = .next t ∧
      t.pc.toNat = (s.pc.toNat + if (s.getV x).toNat ≠ b.toNat then 4 else 2) % 65536 ∧ UnchangedBut [.pc] s t)

/-! ## Loads and ALU -/

/-- R140, R142, R212: the loads of a register from an immediate, a register and the delay timer; no flag; with their
encodings. -/
def Obligations.RegisterLoads : Prop :=
  (∀ (x y : Nibble) (nn : Byte), Encoded (.ldImm x nn) (formatXNN 0x6 x nn) ∧
    Encoded (.ldReg x y) (formatXYN 0x8 x y 0x0) ∧ Encoded (.ldVxDt x) (formatXNN 0xF x 0x07)) ∧
  ∀ (i : Instr) (x : Nibble) (b : Byte) (s : State),
    (i = .ldImm x b ∨ (∃ y, i = .ldReg x y ∧ b = s.getV y) ∨ (i = .ldVxDt x ∧ b = s.dt)) →
    ∃ t, exec i s = .next t ∧ t.getV x = b ∧ (∀ r, r ≠ x → t.getV r = s.getV r) ∧ t.pc = s.pc + 2 ∧
      UnchangedBut [.v, .pc] s t

/-- R141: ADD immediate wraps modulo 256 and writes no flag. -/
def Obligations.AddImmediateWraps : Prop :=
  ∀ (x : Nibble) (nn : Byte) (s : State), Encoded (.addImm x nn) (formatXNN 0x7 x nn) ∧
    ∃ t, exec (.addImm x nn) s = .next t ∧ (t.getV x).toNat = ((s.getV x).toNat + nn.toNat) % 256 ∧
      (∀ r, r ≠ x → t.getV r = s.getV r) ∧ t.pc = s.pc + 2 ∧ UnchangedBut [.v, .pc] s t

/-- R143, R144, R145: OR, AND and XOR bit by bit; no flag; with their encodings. -/
def Obligations.BitwiseOperations : Prop :=
  (∀ x y : Nibble, Encoded (.orReg x y) (formatXYN 0x8 x y 0x1) ∧ Encoded (.andReg x y) (formatXYN 0x8 x y 0x2) ∧
    Encoded (.xorReg x y) (formatXYN 0x8 x y 0x3)) ∧
  ∀ (i : Instr) (x y : Nibble) (f : Bool → Bool → Bool) (s : State),
    (i = .orReg x y ∧ f = or ∨ i = .andReg x y ∧ f = and ∨ i = .xorReg x y ∧ f = xor) →
    ∃ t, exec i s = .next t ∧
      (∀ j < 8, (t.getV x).getLsbD j = f ((s.getV x).getLsbD j) ((s.getV y).getLsbD j)) ∧
      (∀ r, r ≠ x → t.getV r = s.getV r) ∧ t.pc = s.pc + 2 ∧ UnchangedBut [.v, .pc] s t

/-- R146: ADD of two registers: the low 8 bits of the sum, and VF, written last (the spec's decision D10), is the carry. -/
def Obligations.AddRegistersWithCarry : Prop :=
  ∀ (x y : Nibble) (s : State), Encoded (.addReg x y) (formatXYN 0x8 x y 0x4) ∧ ∃ t, exec (.addReg x y) s = .next t ∧
    (x ≠ vf → (t.getV x).toNat = ((s.getV x).toNat + (s.getV y).toNat) % 256) ∧
    t.getV vf = (if (s.getV x).toNat + (s.getV y).toNat > 255 then 1 else 0) ∧
    (∀ r, r ≠ x → r ≠ vf → t.getV r = s.getV r) ∧ t.pc = s.pc + 2 ∧ UnchangedBut [.v, .pc] s t

/-- R147, R148: the two subtractions: the difference modulo 256, and VF, written last (the spec's decision D10), is 1
exactly when the minuend is at least the subtrahend; with their encodings. -/
def Obligations.SubtractWithNoBorrow : Prop :=
  (∀ x y : Nibble, Encoded (.subReg x y) (formatXYN 0x8 x y 0x5) ∧ Encoded (.subnReg x y) (formatXYN 0x8 x y 0x7)) ∧
  ∀ (i : Instr) (x y : Nibble) (a b : Byte) (s : State),
    (i = .subReg x y ∧ a = s.getV x ∧ b = s.getV y ∨ i = .subnReg x y ∧ a = s.getV y ∧ b = s.getV x) →
    ∃ t, exec i s = .next t ∧ (x ≠ vf → ((t.getV x).toNat : Int) = ((a.toNat : Int) - b.toNat) % 256) ∧
      t.getV vf = (if a.toNat ≥ b.toNat then 1 else 0) ∧ (∀ r, r ≠ x → r ≠ vf → t.getV r = s.getV r) ∧
      t.pc = s.pc + 2 ∧ UnchangedBut [.v, .pc] s t

/-- R149, R150: the shifts of V[x] in place, whatever `y` is (the spec's decision D11); VF, written last (D10), is the bit
shifted out; with their encodings. -/
def Obligations.ShiftsInPlace : Prop :=
  ∀ (x y : Nibble) (s : State),
    Encoded (.shr x y) (formatXYN 0x8 x y 0x6) ∧ Encoded (.shl x y) (formatXYN 0x8 x y 0xE) ∧
    (∃ t, exec (.shr x y) s = .next t ∧ (x ≠ vf → (t.getV x).toNat = (s.getV x).toNat / 2) ∧
      (t.getV vf).toNat = (s.getV x).toNat % 2 ∧ (∀ r, r ≠ x → r ≠ vf → t.getV r = s.getV r) ∧ t.pc = s.pc + 2 ∧
      UnchangedBut [.v, .pc] s t) ∧
    (∃ t, exec (.shl x y) s = .next t ∧ (x ≠ vf → (t.getV x).toNat = (s.getV x).toNat * 2 % 256) ∧
      (t.getV vf).toNat = (s.getV x).toNat / 128 ∧ (∀ r, r ≠ x → r ≠ vf → t.getV r = s.getV r) ∧ t.pc = s.pc + 2 ∧
      UnchangedBut [.v, .pc] s t)

/-- R151: RND masks one answer of the randomness source, which nothing constrains (log 2), and takes exactly one. -/
def Obligations.RandomByteMasked : Prop :=
  ∀ (x : Nibble) (nn : Byte) (s : State), Encoded (.rnd x nn) (formatXNN 0xC x nn) ∧ ∃ t, exec (.rnd x nn) s = .next t ∧
    t.getV x = (Config.randByte s.draws &&& nn) ∧ (t.getV x).toNat ≤ nn.toNat ∧ t.draws = s.draws + 1 ∧
    (∀ r, r ≠ x → t.getV r = s.getV r) ∧ t.pc = s.pc + 2 ∧ UnchangedBut [.v, .pc, .draws] s t

/-! ## Index register and memory -/

/-- R170, R171, R172: the three writers of I, each with the value it gives (the modulus and the full byte are the spec's
decisions D18, D19); no flag; with their encodings. -/
def Obligations.IndexRegisterWrites : Prop :=
  (∀ (x : Nibble) (nnn : Addr12), Encoded (.ldI nnn) (formatNNN 0xA nnn) ∧ Encoded (.addI x) (formatXNN 0xF x 0x1E) ∧
    Encoded (.ldF x) (formatXNN 0xF x 0x29)) ∧
  ∀ (i : Instr) (v : Nat) (s : State),
    ((∃ nnn, i = .ldI nnn ∧ v = nnn.toNat) ∨ (∃ x, i = .addI x ∧ v = (s.i.toNat + (s.getV x).toNat) % 65536) ∨
      (∃ x, i = .ldF x ∧ v = 0x050 + (s.getV x).toNat * 5)) →
    ∃ t, exec i s = .next t ∧ t.i.toNat = v ∧ t.pc = s.pc + 2 ∧ UnchangedBut [.i, .pc] s t

/-- R173: FX33 stores the three decimal digits at I, I + 1, I + 2, each address through the rule of R63, and nothing
else; or it faults at the lowest out-of-range address and stores nothing. -/
def Obligations.BcdStored : Prop :=
  ∀ (x : Nibble) (s : State), Encoded (.ldB x) (formatXNN 0xF x 0x33) ∧
    (Accessible s s.i.toNat 3 → ∃ t, exec (.ldB x) s = .next t ∧
      (∀ a, resolve s.cfg.oobPolicy s.i.toNat = some a → (t.readByte a).toNat = (s.getV x).toNat / 100) ∧
      (∀ a, resolve s.cfg.oobPolicy (s.i.toNat + 1) = some a → (t.readByte a).toNat = (s.getV x).toNat / 10 % 10) ∧
      (∀ a, resolve s.cfg.oobPolicy (s.i.toNat + 2) = some a → (t.readByte a).toNat = (s.getV x).toNat % 10) ∧
      (∀ a, (∀ k < 3, resolve s.cfg.oobPolicy (s.i.toNat + k) ≠ some a) → t.readByte a = s.readByte a) ∧
      t.pc = s.pc + 2 ∧ UnchangedBut [.mem, .pc] s t) ∧
    (∀ a, LowestOutOfRange s 3 a →
      exec (.ldB x) s = .next { s with fault := some ⟨.outOfRange .write, s.pc, a⟩ })

/-- R175: FX55 stores V0 to Vx at I + k, each address through the rule of R63, and nothing else, I unchanged; or it
faults at the lowest out-of-range address and stores nothing. -/
def Obligations.RegistersDumped : Prop :=
  ∀ (x : Nibble) (s : State), Encoded (.dumpRegs x) (formatXNN 0xF x 0x55) ∧
    (Accessible s s.i.toNat (x.toNat + 1) → ∃ t, exec (.dumpRegs x) s = .next t ∧
      (∀ (k : Nibble) (a : Nat), k.toNat ≤ x.toNat → resolve s.cfg.oobPolicy (s.i.toNat + k.toNat) = some a →
        t.readByte a = s.getV k) ∧
      (∀ a, (∀ k ≤ x.toNat, resolve s.cfg.oobPolicy (s.i.toNat + k) ≠ some a) → t.readByte a = s.readByte a) ∧
      t.pc = s.pc + 2 ∧ UnchangedBut [.mem, .pc] s t) ∧
    (∀ a, LowestOutOfRange s (x.toNat + 1) a →
      exec (.dumpRegs x) s = .next { s with fault := some ⟨.outOfRange .write, s.pc, a⟩ })

/-- R176: FX65 loads V0 to Vx from I + k, each address through the rule of R63, the registers above x, memory and I
unchanged; or it faults at the lowest out-of-range address and loads nothing. -/
def Obligations.RegistersLoaded : Prop :=
  ∀ (x : Nibble) (s : State), Encoded (.loadRegs x) (formatXNN 0xF x 0x65) ∧
    (Accessible s s.i.toNat (x.toNat + 1) → ∃ t, exec (.loadRegs x) s = .next t ∧
      (∀ (k : Nibble) (a : Nat), k.toNat ≤ x.toNat → resolve s.cfg.oobPolicy (s.i.toNat + k.toNat) = some a →
        t.getV k = s.readByte a) ∧
      (∀ k : Nibble, x.toNat < k.toNat → t.getV k = s.getV k) ∧ t.pc = s.pc + 2 ∧ UnchangedBut [.v, .pc] s t) ∧
    (∀ a, LowestOutOfRange s (x.toNat + 1) a →
      exec (.loadRegs x) s = .next { s with fault := some ⟨.outOfRange .read, s.pc, a⟩ })

/-! ## Display -/

/-- R190: CLS unsets every pixel and sets the draw flag; VF is not touched. -/
def Obligations.ClearScreen : Prop :=
  ∀ s : State, Encoded .cls 0x00E0 ∧ ∃ t, exec .cls s = .next t ∧ (∀ p, t.disp.get p = false) ∧ t.draw = true ∧
    t.pc = s.pc + 2 ∧ UnchangedBut [.disp, .draw, .pc] s t

/-- R192, with the pixels of R191: DXYN toggles exactly the pixels under a set bit of the rows at I, wrapped around both edges; VF is
1 exactly when such a pixel was set; or it faults at the lowest out-of-range address and draws nothing. -/
def Obligations.SpriteDrawn : Prop :=
  ∀ (x y n : Nibble) (s : State), Encoded (.drw x y n) (formatXYN 0xD x y n) ∧
    (Accessible s s.i.toNat n.toNat → ∃ t, exec (.drw x y n) s = .next t ∧
      (∀ p, (Covers (s.getV x).toNat (s.getV y).toNat n.toNat s.spriteRow p → t.disp.get p = !s.disp.get p) ∧
        (¬ Covers (s.getV x).toNat (s.getV y).toNat n.toNat s.spriteRow p → t.disp.get p = s.disp.get p)) ∧
      ((∃ p, Covers (s.getV x).toNat (s.getV y).toNat n.toNat s.spriteRow p ∧ s.disp.get p = true) →
        t.getV vf = 1) ∧
      ((∀ p, Covers (s.getV x).toNat (s.getV y).toNat n.toNat s.spriteRow p → s.disp.get p = false) →
        t.getV vf = 0) ∧
      (∀ r, r ≠ vf → t.getV r = s.getV r) ∧ t.draw = true ∧ t.pc = s.pc + 2 ∧
      UnchangedBut [.disp, .v, .draw, .pc] s t) ∧
    (∀ a, LowestOutOfRange s n.toNat a →
      exec (.drw x y n) s = .next { s with fault := some ⟨.outOfRange .read, s.pc, a⟩ })

/-- R193: DXY0 flips no pixel, writes VF = 0, sets the draw flag and never faults, whatever I holds. -/
def Obligations.EmptySpriteDrawn : Prop :=
  ∀ (x y : Nibble) (s : State), ∃ t, exec (.drw x y 0) s = .next t ∧ t.getV vf = 0 ∧
    (∀ r, r ≠ vf → t.getV r = s.getV r) ∧ t.draw = true ∧ t.pc = s.pc + 2 ∧ UnchangedBut [.v, .draw, .pc] s t

/-- R195: a draw reports a collision exactly when some set bit fell on a pixel that was set. And the same sprite drawn
again at the same origin, by whichever registers give it and with no display change between, restores every pixel and
reports a collision exactly when some set bit fell on a pixel that was unset before the first draw. -/
def Obligations.DrawingTwiceRestores : Prop :=
  ∀ (x y n : Nibble) (s t : State), Accessible s s.i.toNat n.toNat → exec (.drw x y n) s = .next t →
    (t.getV vf = 1 ↔ ∃ p, Covers (s.getV x).toNat (s.getV y).toNat n.toNat s.spriteRow p ∧ s.disp.get p = true) ∧
    ∀ (x' y' : Nibble) (t' u : State), (∀ p, t'.disp.get p = t.disp.get p) → t'.getV x' = s.getV x →
      t'.getV y' = s.getV y → (∀ r < n.toNat, t'.spriteRow r = s.spriteRow r) → Accessible t' t'.i.toNat n.toNat →
      exec (.drw x' y' n) t' = .next u →
      (∀ p, u.disp.get p = s.disp.get p) ∧
      (u.getV vf = 1 ↔
        ∃ p, Covers (s.getV x).toNat (s.getV y).toNat n.toNat s.spriteRow p ∧ s.disp.get p = false)

/-! ## Keys and timers -/

/-- R210, R211: the key skips read the latch of the key V[x] names; a V[x] above 15 faults and changes nothing else (the
spec's decision D16); with their encodings. -/
def Obligations.KeySkips : Prop :=
  ∀ (x : Nibble) (s : State),
    Encoded (.skp x) (formatXNN 0xE x 0x9E) ∧ Encoded (.sknp x) (formatXNN 0xE x 0xA1) ∧
    (∀ k : Nibble, k.toNat = (s.getV x).toNat →
      (∃ t, exec (.skp x) s = .next t ∧ t.pc = s.pc + (if s.getKey k = true then 4 else 2) ∧ UnchangedBut [.pc] s t) ∧
      (∃ t, exec (.sknp x) s = .next t ∧ t.pc = s.pc + (if s.getKey k = false then 4 else 2) ∧
        UnchangedBut [.pc] s t)) ∧
    (15 < (s.getV x).toNat → ∀ i, i = .skp x ∨ i = .sknp x →
      exec i s = .next { s with fault := some ⟨.keyIndexOutOfRange, s.pc, (s.getV x).toNat⟩ })

/-- R213, R214: FX15 and FX18 set their own timer and nothing else; with their encodings. -/
def Obligations.TimersSet : Prop :=
  ∀ (x : Nibble) (s : State),
    Encoded (.ldDtVx x) (formatXNN 0xF x 0x15) ∧ Encoded (.ldStVx x) (formatXNN 0xF x 0x18) ∧
    (∃ t, exec (.ldDtVx x) s = .next t ∧ t.dt = s.getV x ∧ t.pc = s.pc + 2 ∧ UnchangedBut [.dt, .pc] s t) ∧
    (∃ t, exec (.ldStVx x) s = .next t ∧ t.st = s.getV x ∧ t.pc = s.pc + 2 ∧ UnchangedBut [.st, .pc] s t)

/-- R215: FX0A suspends, remembers its register, and changes nothing else: PC and V[x] wait, held key or not. -/
def Obligations.WaitForKeySuspends : Prop :=
  ∀ (x : Nibble) (s : State), Encoded (.ldVxK x) (formatXNN 0xF x 0x0A) ∧
    ∃ t, exec (.ldVxK x) s = .next t ∧ t.susp = true ∧ t.waitReg = x ∧ UnchangedBut [.wait] s t

/-- R39, R251: a suspended core becomes unsuspended only by a press of one of the 16 keys, or by reset. -/
def Obligations.OnlyKeyPressOrResetEndsWait : Prop :=
  ∀ s t : State, s.susp = true → step s = .next t → t.susp = false →
    ∃ rest, s.schedule = .reset :: rest ∨ ∃ k ≤ 15, s.schedule = .setKey k true :: rest

/-- R215, R216 (spec/95_test_vectors.md V9): from an FX0A, any calls that are neither a press of one of the 16 keys nor a
reset, and then the press of key `k`: PC is 2 past the FX0A, V[x] is `k`, every other register is as it was, and the core
is no longer suspended, with FAULT as it was (so a core that had no fault runs again). -/
def Obligations.KeyWaitResolvesToKey : Prop :=
  ∀ (x k : Nibble) (s t : State) (calls : List HostCall), exec (.ldVxK x) s = .next t →
    (∀ c ∈ calls, c.endsWait = false) → t.schedule = calls ++ [.setKey k.toNat true] →
    ∃ u : State, Host.Core.run core (calls.length + 1) t = .next u ∧ u.susp = false ∧ u.fault = s.fault ∧
      u.pc = s.pc + 2 ∧ u.getV x = k.setWidth 8 ∧ (∀ r, r ≠ x → u.getV r = s.getV r) ∧ u.getKey k = true

/-! ## Decode failure -/

/-- R99: a decode failure advances PC by 2; under `DIAG_UNKNOWN` it reports the word and its PC to the host; nothing else
changes either way. -/
def Obligations.DecodeFailureSkips : Prop :=
  ∀ (w : Word) (s : State), ∃ t, exec (.unknown w) s = .next t ∧ t.pc = s.pc + 2 ∧
    t.outbox = (if s.cfg.diagUnknown = true then [.unknownOpcode w s.pc] else []) ++ s.outbox ∧
    UnchangedBut [.pc, .outbox] s t

/-! ## Host operations -/

/-- R255, R292 (spec/95_test_vectors.md V10): `n` ticks in a row lower each timer by `n`, floored at 0, and change nothing
else, running, suspended or faulted. -/
def Obligations.TicksCountDown : Prop :=
  ∀ (n : Nat) (s : State) (rest : List HostCall), s.schedule = List.replicate n .tick ++ rest →
    ∃ t : State, Host.Core.run core n s = .next t ∧ t.dt.toNat = s.dt.toNat - n ∧ t.st.toNat = s.st.toNat - n ∧
      t.schedule = rest ∧ UnchangedBut [.dt, .st, .schedule] s t

/-- R216, R257: setKey sets one flag; a press resolves a pending wait, and nothing else does. -/
def Obligations.SetKeyUpdatesLatchAndResolves : Prop :=
  ∀ (s : State) (k : Nibble) (pressed : Bool) (rest : List HostCall), s.schedule = .setKey k.toNat pressed :: rest →
    ∃ t, step s = .next t ∧ t.getKey k = pressed ∧ (∀ j, j ≠ k → t.getKey j = s.getKey j) ∧ t.schedule = rest ∧
      ((pressed = false ∨ s.susp = false) → UnchangedBut [.key, .schedule] s t) ∧
      (pressed = true → s.susp = true → t.susp = false ∧ t.waitReg = s.waitReg ∧ t.pc = s.pc + 2 ∧
        (t.getV s.waitReg).toNat = k.toNat ∧ (∀ r, r ≠ s.waitReg → t.getV r = s.getV r) ∧
        UnchangedBut [.key, .schedule, .v, .pc, .wait] s t)

/-- R258, R259: resetKeys clears the 16 flags, clearDrawFlag the draw flag, and each nothing else. -/
def Obligations.ResetKeysAndClearDrawFlag : Prop :=
  ∀ (s : State) (rest : List HostCall),
    (s.schedule = .resetKeys :: rest → ∃ t, step s = .next t ∧ (∀ k, t.getKey k = false) ∧ t.schedule = rest ∧
      UnchangedBut [.key, .schedule] s t) ∧
    (s.schedule = .clearDrawFlag :: rest → ∃ t, step s = .next t ∧ t.draw = false ∧ t.schedule = rest ∧
      UnchangedBut [.draw, .schedule] s t)

/-- R280: reset, in any state, gives every piece of state of R20 its reset value: memory zero but for the font table,
whose first bytes are 0xF0, 0x90 and whose others are the configured ones. The configuration, the randomness source and
the host's side stay (log 3, log 4). -/
def Obligations.ResetGivesBaseline : Prop :=
  ∀ (s : State) (rest : List HostCall), s.schedule = .reset :: rest → ∃ t, step s = .next t ∧
    (∀ a, a < 0x050 ∨ 0x0A0 ≤ a → t.readByte a = 0) ∧ t.readByte 0x050 = 0xF0 ∧ t.readByte 0x051 = 0x90 ∧
    (∀ d (h : d < 78), t.readByte (0x052 + d) = s.cfg.fontTail[d]) ∧
    (∀ r, t.getV r = 0) ∧ t.i = 0 ∧ t.pc = 0x200 ∧ t.sp = 0 ∧ (∀ k (h : k < 16), t.stack[k] = 0) ∧ t.dt = 0 ∧ t.st = 0 ∧
    (∀ k, t.getKey k = false) ∧ t.susp = false ∧ t.waitReg = 0 ∧ t.draw = false ∧ t.fault = none ∧
    (∀ p, t.disp.get p = false) ∧ t.cfg = s.cfg ∧ t.draws = s.draws ∧ t.outbox = s.outbox ∧ t.schedule = rest

/-- R281, R282: a reset of the machine as constructed changes nothing, and a second reset changes nothing more than the
first, in any state: reset is idempotent. -/
def Obligations.ResetIsIdempotent : Prop :=
  step { State.reset with schedule := [.reset] } = .next State.reset ∧
  ∀ (s t : State) (rest : List HostCall), step { s with schedule := .reset :: rest } = .next t →
    step { t with schedule := .reset :: rest } = .next t

/-- R280 (spec/95_test_vectors.md V8): the values after construction. -/
def Obligations.ConstructedStateValues : Prop :=
  State.reset.pc = 0x200 ∧ State.reset.sp = 0 ∧ State.reset.i = 0 ∧ State.reset.dt = 0 ∧ State.reset.st = 0 ∧
  (∀ r, State.reset.getV r = 0) ∧ (∀ k, State.reset.getKey k = false) ∧
  (∀ k (h : k < 16), State.reset.stack[k] = 0) ∧ State.reset.readByte 0x050 = 0xF0 ∧ State.reset.readByte 0x051 = 0x90

/-- R283: load copies a sequence of at most 3584 bytes to 0x200 and changes nothing else. -/
def Obligations.LoadCopiesProgram : Prop :=
  ∀ (s : State) (bytes : List Byte) (rest : List HostCall), s.schedule = .load bytes :: rest → bytes.length ≤ 3584 →
    ∃ t, step s = .next t ∧ (∀ k (h : k < bytes.length), t.readByte (0x200 + k) = bytes[k]) ∧
      (∀ a, a < 0x200 ∨ 0x200 + bytes.length ≤ a → t.readByte a = s.readByte a) ∧ t.schedule = rest ∧
      UnchangedBut [.mem, .schedule] s t

/-- R260: a load of more than 3584 bytes and a setKey with k > 15 have no effect on the core's state; the host gets an
error (its form: log 4). -/
def Obligations.ContractViolationsRefused : Prop :=
  ∀ (s : State) (rest : List HostCall),
    (∀ bytes, s.schedule = .load bytes :: rest → 3584 < bytes.length →
      step s = .next { s with schedule := rest, outbox := .loadRefused bytes.length :: s.outbox }) ∧
    (∀ k pressed, s.schedule = .setKey k pressed :: rest → 15 < k →
      step s = .next { s with schedule := rest, outbox := .setKeyRefused k :: s.outbox })

/-- R45: observe returns the whole state of R20 without changing it (the answer goes to the outbox: log 4). -/
def Obligations.ObserveReturnsState : Prop :=
  ∀ (s : State) (rest : List HostCall), s.schedule = .observe :: rest → ∃ o : Observation,
    step s = .next { s with schedule := rest, outbox := .observed o :: s.outbox } ∧
    (∀ a (h : a < o.mem.length), o.mem[a] = s.readByte a) ∧ o.mem.length = 4096 ∧ o.v = s.v ∧ o.i = s.i ∧ o.pc = s.pc ∧
    o.sp = s.sp ∧ o.stack = s.stack ∧ o.dt = s.dt ∧ o.st = s.st ∧ o.key = s.key ∧ o.susp = s.susp ∧
    o.waitReg = s.waitReg ∧ o.draw = s.draw ∧ o.fault = s.fault ∧ o.disp = s.disp

/-- R284: reset, then load, then execute: from any state, the first instruction that runs is the one in the image's first
two bytes, at PC = 0x200. -/
def Obligations.LoadedProgramRunsFirst : Prop :=
  ∀ (s : State) (hi lo : Byte) (image : List Byte), s.schedule = [.reset, .load (hi :: lo :: image)] →
    image.length + 2 ≤ 3584 → ∃ t : State, Host.Core.run core 2 s = .next t ∧ t.pc = 0x200 ∧ t.fault = none ∧ t.susp = false ∧
      step t = exec (decode (wordOfBytes hi lo)) t

/-- R296: a state parked by a fault or by a jump to itself is changed by no later execute. -/
def Obligations.ParkedStateIsFixed : Prop :=
  ∀ s : State, s.Parked → s.schedule = [] → step s = .next s
end

