-- ==== Sys2Proof/Laws/Display.lean ====
section
/-! SUPPORT. The laws of the display and of drawing a list of pixels. -/

namespace Sys2Proof.Machine

@[simp] theorem Display.get_clear (p : Pixel) : Display.clear.get p = false := by
  simp [Display.get, Display.clear]

@[simp] theorem Display.get_flip (d : Display) (p q : Pixel) :
    (d.flip p).get q = if q = p then !d.get p else d.get q := by
  obtain ⟨px, py⟩ := p
  obtain ⟨qx, qy⟩ := q
  unfold Display.flip Display.get
  simp only [Vector.getElem_set, Prod.mk.injEq, Fin.ext_iff]
  by_cases hx : px.val = qx.val
  · by_cases hy : py.val = qy.val
    · simp [hx, hy]
    · simp [hx, hy, Ne.symm hy]
  · simp [hx, Ne.symm hx]

/-- Two displays that answer alike everywhere are the same. -/
theorem Display.ext_get {d d' : Display} (h : ∀ p : Pixel, d.get p = d'.get p) : d = d' := by
  apply Vector.ext
  intro x hx
  apply Vector.ext
  intro y hy
  exact h (⟨x, hx⟩, ⟨y, hy⟩)

/-- A pixel drawn once is flipped, a pixel not drawn stays (spec/43_display.md R194). -/
theorem get_drawPixels {ps : List Pixel} (hn : ps.Nodup) (d : Display) (c : Bool) (q : Pixel) :
    (drawPixels ps (d, c)).1.get q = if q ∈ ps then !d.get q else d.get q := by
  induction ps generalizing d c with
  | nil => simp [drawPixels]
  | cons p ps ih =>
    rw [List.nodup_cons] at hn
    unfold drawPixels
    rw [ih hn.2, Display.get_flip]
    by_cases hq : q = p
    · subst hq; simp [hn.1]
    · simp [hq]

/-- The collision of drawing distinct pixels: some drawn pixel was set (spec/43_display.md R195). -/
theorem collision_drawPixels {ps : List Pixel} (hn : ps.Nodup) (d : Display) (c : Bool) :
    (drawPixels ps (d, c)).2 = (c || ps.any d.get) := by
  induction ps generalizing d c with
  | nil => simp [drawPixels]
  | cons p ps ih =>
    rw [List.nodup_cons] at hn
    unfold drawPixels
    rw [ih hn.2, List.any_cons, Bool.or_assoc]
    congr 2
    apply Bool.eq_iff_iff.mpr
    simp only [List.any_eq_true, Display.get_flip]
    constructor
    · rintro ⟨q, hq, h⟩
      have hne : q ≠ p := by rintro rfl; exact hn.1 hq
      exact ⟨q, hq, by rwa [if_neg hne] at h⟩
    · rintro ⟨q, hq, h⟩
      have hne : q ≠ p := by rintro rfl; exact hn.1 hq
      exact ⟨q, hq, by rwa [if_neg hne]⟩

theorem mem_rowPixels {ox oy r : Nat} {row : Byte} {p : Pixel} :
    p ∈ rowPixels ox oy r row ↔
      ∃ c < 8, row.getLsbD (7 - c) = true ∧ p.1.val = (ox + c) % 64 ∧ p.2.val = (oy + r) % 32 := by
  obtain ⟨px, py⟩ := p
  simp only [rowPixels, List.mem_map, List.mem_filter, List.mem_range, spritePixel, Prod.mk.injEq, Fin.ext_iff,
    Fin.val_ofNat]
  constructor
  · rintro ⟨c, ⟨hc, hb⟩, hx, hy⟩; exact ⟨c, hc, hb, hx.symm, hy.symm⟩
  · rintro ⟨c, hc, hb, hx, hy⟩; exact ⟨c, ⟨hc, hb⟩, hx.symm, hy.symm⟩

/-- The pixels of a sprite: those under a set bit (spec/43_display.md R191). -/
theorem mem_spritePixels {ox oy r : Nat} {rows : List Byte} {p : Pixel} :
    p ∈ spritePixels ox oy r rows ↔
      ∃ k, ∃ h : k < rows.length, ∃ c < 8, (rows[k]).getLsbD (7 - c) = true ∧ p.1.val = (ox + c) % 64 ∧
        p.2.val = (oy + (r + k)) % 32 := by
  induction rows generalizing r with
  | nil => simp [spritePixels]
  | cons row rows ih =>
    simp only [spritePixels, List.mem_append, mem_rowPixels, ih]
    constructor
    · rintro (⟨c, hc, hb, hx, hy⟩ | ⟨k, hk, c, hc, hb, hx, hy⟩)
      · exact ⟨0, by simp, c, hc, hb, hx, hy⟩
      · exact ⟨k + 1, by simpa using hk, c, hc, hb, hx, by rw [hy]; congr 1; omega⟩
    · rintro ⟨k, hk, c, hc, hb, hx, hy⟩
      cases k with
      | zero => exact .inl ⟨c, hc, hb, hx, hy⟩
      | succ k => exact .inr ⟨k, by simpa using hk, c, hc, hb, hx, by rw [hy]; congr 1; omega⟩

theorem nodup_rowPixels (ox oy r : Nat) (row : Byte) : (rowPixels ox oy r row).Nodup := by
  unfold rowPixels
  rw [List.nodup_map_iff_inj_on (List.nodup_range.filter _)]
  intro a ha b hb h
  simp only [List.mem_filter, List.mem_range, spritePixel, Prod.mk.injEq, Fin.ext_iff, Fin.val_ofNat] at *
  omega

/-- No pixel is drawn twice: at most 32 rows, each of 8 columns (spec/43_display.md R194). -/
theorem nodup_spritePixels {ox oy r : Nat} {rows : List Byte} (h : rows.length ≤ 32) :
    (spritePixels ox oy r rows).Nodup := by
  induction rows generalizing r with
  | nil => simp [spritePixels]
  | cons row rows ih =>
    simp only [List.length_cons] at h
    unfold spritePixels
    rw [List.nodup_append]
    refine ⟨nodup_rowPixels .., ih (by omega), ?_⟩
    rintro p hp q hq rfl
    obtain ⟨c, hc, -, -, hy⟩ := mem_rowPixels.mp hp
    obtain ⟨k, hk, c', hc', -, -, hy'⟩ := mem_spritePixels.mp hq
    omega

/-- What drawing a sprite answers, pixel by pixel, and its collision (spec/43_display.md R194, R195). -/
theorem drawSprite_spec {ox oy : Nat} {rows : List Byte} (h : rows.length ≤ 32) (d : Display) :
    (∀ q, (drawSprite ox oy rows d).1.get q = if q ∈ spritePixels ox oy 0 rows then !d.get q else d.get q) ∧
      (drawSprite ox oy rows d).2 = (spritePixels ox oy 0 rows).any d.get :=
  ⟨get_drawPixels (nodup_spritePixels h) d false, by
    rw [drawSprite, collision_drawPixels (nodup_spritePixels h), Bool.false_or]⟩

end Sys2Proof.Machine
end

