-- ==== Sys2Proof/Laws/Encoding.lean ====
section
/-! SUPPORT. The fields of the words the formats build, and the formats of a word's fields. -/

namespace Sys2Proof.Machine

theorem toNat_append_eq {m n : Nat} (a : BitVec m) (b : BitVec n) : (a ++ b).toNat = a.toNat * 2 ^ n + b.toNat := by
  rw [BitVec.toNat_append, ← Nat.shiftLeft_add_eq_or_of_lt b.isLt, Nat.shiftLeft_eq]

theorem toNat_formatNNN (op : Nibble) (nnn : Addr12) : (formatNNN op nnn).toNat = op.toNat * 4096 + nnn.toNat :=
  toNat_append_eq op nnn

theorem toNat_formatXNN (op x : Nibble) (nn : Byte) :
    (formatXNN op x nn).toNat = (op.toNat * 16 + x.toNat) * 256 + nn.toNat := by
  unfold formatXNN; rw [toNat_append_eq, toNat_append_eq]; omega

theorem toNat_formatXYN (op x y n : Nibble) :
    (formatXYN op x y n).toNat = ((op.toNat * 16 + x.toNat) * 16 + y.toNat) * 16 + n.toNat := by
  unfold formatXYN; rw [toNat_append_eq, toNat_append_eq, toNat_append_eq]; omega

theorem toNat_opField (w : Word) : (opField w).toNat = w.toNat / 4096 % 16 := by
  simp [opField, BitVec.extractLsb'_toNat, Nat.shiftRight_eq_div_pow]

theorem toNat_xField (w : Word) : (xField w).toNat = w.toNat / 256 % 16 := by
  simp [xField, BitVec.extractLsb'_toNat, Nat.shiftRight_eq_div_pow]

theorem toNat_yField (w : Word) : (yField w).toNat = w.toNat / 16 % 16 := by
  simp [yField, BitVec.extractLsb'_toNat, Nat.shiftRight_eq_div_pow]

theorem toNat_nField (w : Word) : (nField w).toNat = w.toNat % 16 := by
  simp [nField, BitVec.extractLsb'_toNat]

theorem toNat_nnField (w : Word) : (nnField w).toNat = w.toNat % 256 := by
  simp [nnField, BitVec.extractLsb'_toNat]

theorem toNat_nnnField (w : Word) : (nnnField w).toNat = w.toNat % 4096 := by
  simp [nnnField, BitVec.extractLsb'_toNat]

theorem toNat_wordOfBytes (hi lo : Byte) : (wordOfBytes hi lo).toNat = hi.toNat * 256 + lo.toNat := toNat_append_eq hi lo

theorem toNat_hiByte (w : Word) : (hiByte w).toNat = w.toNat / 256 % 256 := by
  simp [hiByte, BitVec.extractLsb'_toNat, Nat.shiftRight_eq_div_pow]

theorem toNat_loByte (w : Word) : (loByte w).toNat = w.toNat % 256 := by
  simp [loByte, BitVec.extractLsb'_toNat]

@[simp] theorem opField_formatNNN (op : Nibble) (nnn : Addr12) : opField (formatNNN op nnn) = op := by
  apply BitVec.eq_of_toNat_eq; rw [toNat_opField, toNat_formatNNN]; omega

@[simp] theorem nnnField_formatNNN (op : Nibble) (nnn : Addr12) : nnnField (formatNNN op nnn) = nnn := by
  apply BitVec.eq_of_toNat_eq; rw [toNat_nnnField, toNat_formatNNN]; omega

@[simp] theorem opField_formatXNN (op x : Nibble) (nn : Byte) : opField (formatXNN op x nn) = op := by
  apply BitVec.eq_of_toNat_eq; rw [toNat_opField, toNat_formatXNN]; omega

@[simp] theorem xField_formatXNN (op x : Nibble) (nn : Byte) : xField (formatXNN op x nn) = x := by
  apply BitVec.eq_of_toNat_eq; rw [toNat_xField, toNat_formatXNN]; omega

@[simp] theorem nnField_formatXNN (op x : Nibble) (nn : Byte) : nnField (formatXNN op x nn) = nn := by
  apply BitVec.eq_of_toNat_eq; rw [toNat_nnField, toNat_formatXNN]; omega

@[simp] theorem opField_formatXYN (op x y n : Nibble) : opField (formatXYN op x y n) = op := by
  apply BitVec.eq_of_toNat_eq; rw [toNat_opField, toNat_formatXYN]; omega

@[simp] theorem xField_formatXYN (op x y n : Nibble) : xField (formatXYN op x y n) = x := by
  apply BitVec.eq_of_toNat_eq; rw [toNat_xField, toNat_formatXYN]; omega

@[simp] theorem yField_formatXYN (op x y n : Nibble) : yField (formatXYN op x y n) = y := by
  apply BitVec.eq_of_toNat_eq; rw [toNat_yField, toNat_formatXYN]; omega

@[simp] theorem nField_formatXYN (op x y n : Nibble) : nField (formatXYN op x y n) = n := by
  apply BitVec.eq_of_toNat_eq; rw [toNat_nField, toNat_formatXYN]; omega

theorem formatNNN_fields (w : Word) : formatNNN (opField w) (nnnField w) = w := by
  apply BitVec.eq_of_toNat_eq; rw [toNat_formatNNN, toNat_opField, toNat_nnnField]; omega

theorem formatXNN_fields (w : Word) : formatXNN (opField w) (xField w) (nnField w) = w := by
  apply BitVec.eq_of_toNat_eq; rw [toNat_formatXNN, toNat_opField, toNat_xField, toNat_nnField]; omega

theorem formatXYN_fields (w : Word) : formatXYN (opField w) (xField w) (yField w) (nField w) = w := by
  apply BitVec.eq_of_toNat_eq
  rw [toNat_formatXYN, toNat_opField, toNat_xField, toNat_yField, toNat_nField]; omega

@[simp] theorem wordOfBytes_hi_lo (w : Word) : wordOfBytes (hiByte w) (loByte w) = w := by
  apply BitVec.eq_of_toNat_eq; rw [toNat_wordOfBytes, toNat_hiByte, toNat_loByte]; omega

@[simp] theorem hiByte_wordOfBytes (hi lo : Byte) : hiByte (wordOfBytes hi lo) = hi := by
  apply BitVec.eq_of_toNat_eq; rw [toNat_hiByte, toNat_wordOfBytes]; omega

@[simp] theorem loByte_wordOfBytes (hi lo : Byte) : loByte (wordOfBytes hi lo) = lo := by
  apply BitVec.eq_of_toNat_eq; rw [toNat_loByte, toNat_wordOfBytes]; omega

theorem getLsbD_formatNNN (op : Nibble) (nnn : Addr12) (i : Nat) :
    (formatNNN op nnn).getLsbD i = if i < 12 then nnn.getLsbD i else op.getLsbD (i - 12) := BitVec.getLsbD_append

theorem getLsbD_formatXNN (op x : Nibble) (nn : Byte) (i : Nat) :
    (formatXNN op x nn).getLsbD i =
      if i < 8 then nn.getLsbD i else if i - 8 < 4 then x.getLsbD (i - 8) else op.getLsbD (i - 8 - 4) := by
  unfold formatXNN; rw [BitVec.getLsbD_append, BitVec.getLsbD_append]

theorem getLsbD_formatXYN (op x y n : Nibble) (i : Nat) :
    (formatXYN op x y n).getLsbD i =
      if i < 4 then n.getLsbD i else if i - 4 < 4 then y.getLsbD (i - 4) else
        if i - 4 - 4 < 4 then x.getLsbD (i - 4 - 4) else op.getLsbD (i - 4 - 4 - 4) := by
  unfold formatXYN; rw [BitVec.getLsbD_append, BitVec.getLsbD_append, BitVec.getLsbD_append]

theorem lt_16_cases {P : Nat → Prop} (h0 : P 0) (h1 : P 1) (h2 : P 2) (h3 : P 3) (h4 : P 4) (h5 : P 5) (h6 : P 6)
    (h7 : P 7) (h8 : P 8) (h9 : P 9) (h10 : P 10) (h11 : P 11) (h12 : P 12) (h13 : P 13) (h14 : P 14) (h15 : P 15)
    (i : Nat) (hi : i < 16) : P i := by
  interval_cases i <;> assumption

/-- The mask of the rows decoded by the top nibble keeps `op`. -/
theorem and_F000 (w : Word) : w &&& 0xF000 = formatNNN (opField w) 0 := by
  apply BitVec.eq_of_getLsbD_eq
  apply lt_16_cases <;> rw [getLsbD_formatNNN, BitVec.getLsbD_and] <;> simp [opField]

/-- The mask of class 0x8 keeps `op` and `n`. -/
theorem and_F00F (w : Word) : w &&& 0xF00F = formatXYN (opField w) 0 0 (nField w) := by
  apply BitVec.eq_of_getLsbD_eq
  apply lt_16_cases <;> rw [getLsbD_formatXYN, BitVec.getLsbD_and] <;> simp [opField, nField]

/-- The mask of classes 0xE and 0xF keeps `op` and `nn`. -/
theorem and_F0FF (w : Word) : w &&& 0xF0FF = formatXNN (opField w) 0 (nnField w) := by
  apply BitVec.eq_of_getLsbD_eq
  apply lt_16_cases <;> rw [getLsbD_formatXNN, BitVec.getLsbD_and] <;> simp [opField, nnField]

/-- A row decoded by the top nibble is matched by exactly the words of its class. -/
theorem rowMatches_op (w : Word) (c : Nibble) : rowMatches w ⟨formatNNN c 0, 0xF000⟩ = true ↔ opField w = c := by
  rw [rowMatches, beq_iff_eq, and_F000]
  constructor
  · intro h; simpa using congrArg opField h
  · rintro rfl; rfl

/-- A row of class 0x8 is matched by exactly the words with its `op` and `n`. -/
theorem rowMatches_op_n (w : Word) (c n : Nibble) :
    rowMatches w ⟨formatXYN c 0 0 n, 0xF00F⟩ = true ↔ opField w = c ∧ nField w = n := by
  rw [rowMatches, beq_iff_eq, and_F00F]
  constructor
  · intro h; exact ⟨by simpa using congrArg opField h, by simpa using congrArg nField h⟩
  · rintro ⟨rfl, rfl⟩; rfl

/-- A row of class 0xE or 0xF is matched by exactly the words with its `op` and `nn`. -/
theorem rowMatches_op_nn (w : Word) (c : Nibble) (nn : Byte) :
    rowMatches w ⟨formatXNN c 0 nn, 0xF0FF⟩ = true ↔ opField w = c ∧ nnField w = nn := by
  rw [rowMatches, beq_iff_eq, and_F0FF]
  constructor
  · intro h; exact ⟨by simpa using congrArg opField h, by simpa using congrArg nnField h⟩
  · rintro ⟨rfl, rfl⟩; rfl

end Sys2Proof.Machine
end

