-- ==== Sys2Proof/Laws/Memory.lean ====
section
/-! SUPPORT. The laws of memory: a read after a write, the canonical form kept, and what the address rule answers. -/

namespace Sys2Proof.Machine

variable {dflt : Nat → Byte}

@[simp] theorem Memory.read_nil (a : Nat) : Memory.read dflt [] a = dflt a := rfl

theorem Memory.read_cons (a' : Nat) (b : Byte) (m : Memory) (a : Nat) :
    Memory.read dflt ((a', b) :: m) a = if a = a' then b else Memory.read dflt m a := rfl

theorem Memory.read_erase (m : Memory) (a c : Nat) :
    Memory.read dflt (m.erase a) c = if c = a then dflt a else Memory.read dflt m c := by
  induction m with
  | nil => simp only [Memory.erase, List.filter_nil, Memory.read_nil]; split <;> simp_all
  | cons e m ih =>
    obtain ⟨a', b⟩ := e
    unfold Memory.erase at ih ⊢
    by_cases h : a' = a
    · subst h
      simp only [List.filter_cons, bne_self_eq_false, Bool.false_eq_true, if_false, ih, Memory.read_cons]
      split <;> rfl
    · have hb : (a' != a) = true := by simpa using h
      simp only [List.filter_cons, hb, if_true, Memory.read_cons, ih]
      split <;> split <;> simp_all

theorem Memory.read_insert (m : Memory) (a c : Nat) (b : Byte) (hm : ∀ e ∈ m, e.1 ≠ a) :
    Memory.read dflt (m.insert a b) c = if c = a then b else Memory.read dflt m c := by
  induction m with
  | nil => simp [Memory.insert, Memory.read_cons]
  | cons e m ih =>
    obtain ⟨a', b'⟩ := e
    have hne : a' ≠ a := hm (a', b') (by simp)
    have ih := ih fun e he => hm e (by simp [he])
    unfold Memory.insert
    split
    · simp only [Memory.read_cons]
    · simp only [Memory.read_cons, ih]
      split <;> split <;> simp_all

/-- A read after a write: the byte written at its address, every other address as before. -/
theorem Memory.read_write (m : Memory) (a c : Nat) (b : Byte) :
    Memory.read dflt (m.write dflt a b) c = if c = a then b else Memory.read dflt m c := by
  unfold Memory.write
  split
  · next h => rw [Memory.read_erase, h]
  · rw [Memory.read_insert _ _ _ _ (by simp [Memory.erase]), Memory.read_erase]
    split <;> rfl

theorem Memory.wfFrom_cons (lo a : Nat) (b : Byte) (m : Memory) :
    Memory.wfFrom dflt lo ((a, b) :: m) = true ↔
      lo ≤ a ∧ a < memSize ∧ b ≠ dflt a ∧ Memory.wfFrom dflt (a + 1) m = true := by
  simp [Memory.wfFrom, and_assoc]

theorem Memory.wfFrom_mono {lo lo' : Nat} {m : Memory} (h : Memory.wfFrom dflt lo m = true) (hl : lo' ≤ lo) :
    Memory.wfFrom dflt lo' m = true := by
  cases m with
  | nil => rfl
  | cons e m => rw [Memory.wfFrom_cons] at h ⊢; exact ⟨hl.trans h.1, h.2⟩

theorem Memory.wfFrom_erase {lo : Nat} {m : Memory} (a : Nat) (h : Memory.wfFrom dflt lo m = true) :
    Memory.wfFrom dflt lo (m.erase a) = true := by
  induction m generalizing lo with
  | nil => exact h
  | cons e m ih =>
    obtain ⟨a', b'⟩ := e
    rw [Memory.wfFrom_cons] at h
    have ih := ih h.2.2.2
    unfold Memory.erase at ih ⊢
    rw [List.filter_cons]
    split
    · rw [Memory.wfFrom_cons]; exact ⟨h.1, h.2.1, h.2.2.1, ih⟩
    · exact Memory.wfFrom_mono ih (by omega)

theorem Memory.wfFrom_insert {lo a : Nat} {b : Byte} {m : Memory} (h : Memory.wfFrom dflt lo m = true)
    (hm : ∀ e ∈ m, e.1 ≠ a) (hlo : lo ≤ a) (ha : a < memSize) (hb : b ≠ dflt a) :
    Memory.wfFrom dflt lo (m.insert a b) = true := by
  induction m generalizing lo with
  | nil => simp [Memory.insert, Memory.wfFrom, hlo, ha, hb]
  | cons e m ih =>
    obtain ⟨a', b'⟩ := e
    have hne : a' ≠ a := hm (a', b') (by simp)
    rw [Memory.wfFrom_cons] at h
    unfold Memory.insert
    split
    · next hlt =>
      rw [Memory.wfFrom_cons, Memory.wfFrom_cons]
      exact ⟨hlo, ha, hb, by omega, h.2⟩
    · rw [Memory.wfFrom_cons]
      exact ⟨h.1, h.2.1, h.2.2.1, ih h.2.2.2 (fun e he => hm e (by simp [he])) (by omega)⟩

/-- A write to an address below 4096 keeps the canonical form. -/
theorem Memory.wf_write {m : Memory} {a : Nat} (b : Byte) (h : Memory.wf dflt m = true) (ha : a < memSize) :
    Memory.wf dflt (m.write dflt a b) = true := by
  unfold Memory.wf Memory.write at *
  split
  · exact Memory.wfFrom_erase a h
  · next hb => exact Memory.wfFrom_insert (Memory.wfFrom_erase a h) (by simp [Memory.erase]) (Nat.zero_le _) ha hb

theorem Memory.wfFrom_mem {lo a : Nat} {b : Byte} {m : Memory} (h : Memory.wfFrom dflt lo m = true) (hm : (a, b) ∈ m) :
    lo ≤ a ∧ a < memSize ∧ b ≠ dflt a := by
  induction m generalizing lo with
  | nil => simp at hm
  | cons e m ih =>
    obtain ⟨a', b'⟩ := e
    rw [Memory.wfFrom_cons] at h
    rcases List.mem_cons.mp hm with he | he
    · obtain ⟨rfl, rfl⟩ := Prod.mk.inj he
      exact ⟨h.1, h.2.1, h.2.2.1⟩
    · have := ih h.2.2.2 he
      exact ⟨by omega, this.2⟩

theorem Memory.read_below {lo a : Nat} {m : Memory} (h : Memory.wfFrom dflt lo m = true) (ha : a < lo) :
    Memory.read dflt m a = dflt a := by
  induction m generalizing lo with
  | nil => rfl
  | cons e m ih =>
    obtain ⟨a', b'⟩ := e
    rw [Memory.wfFrom_cons] at h
    have : a ≠ a' := by omega
    rw [Memory.read_cons, if_neg this]
    exact ih h.2.2.2 (by omega)

/-- The canonical form is one form: memories that read the same are the same list. -/
theorem Memory.ext_of_read {m m' : Memory} {lo : Nat} (h : Memory.wfFrom dflt lo m = true)
    (h' : Memory.wfFrom dflt lo m' = true) (hr : ∀ a, Memory.read dflt m a = Memory.read dflt m' a) : m = m' := by
  induction m generalizing lo m' with
  | nil =>
    cases m' with
    | nil => rfl
    | cons e m' =>
      obtain ⟨a, b⟩ := e
      have hab := (Memory.wfFrom_cons lo a b m').mp h'
      have := hr a
      simp only [Memory.read_nil, Memory.read_cons, if_true] at this
      exact absurd this.symm hab.2.2.1
  | cons e m ih =>
    obtain ⟨a, b⟩ := e
    have hab := (Memory.wfFrom_cons lo a b m).mp h
    cases m' with
    | nil =>
      have := hr a
      simp only [Memory.read_nil, Memory.read_cons, if_true] at this
      exact absurd this hab.2.2.1
    | cons e' m' =>
      obtain ⟨a', b'⟩ := e'
      have hab' := (Memory.wfFrom_cons lo a' b' m').mp h'
      have haa : a = a' := by
        rcases Nat.lt_trichotomy a a' with hl | he | hl
        · have := hr a
          rw [Memory.read_cons, if_pos rfl, Memory.read_cons, if_neg (by omega),
            Memory.read_below hab'.2.2.2 (by omega)] at this
          exact absurd this hab.2.2.1
        · exact he
        · have := hr a'
          rw [Memory.read_cons a' b', if_pos rfl, Memory.read_cons, if_neg (by omega),
            Memory.read_below hab.2.2.2 (by omega)] at this
          exact absurd this.symm hab'.2.2.1
      subst haa
      have hbb : b = b' := by simpa [Memory.read_cons] using hr a
      subst hbb
      refine congrArg _ (ih hab.2.2.2 hab'.2.2.2 fun c => ?_)
      by_cases hc : c = a
      · subst hc
        rw [Memory.read_below hab.2.2.2 (by omega), Memory.read_below hab'.2.2.2 (by omega)]
      · simpa [Memory.read_cons, hc] using hr c

/-- Every address the rule of R63 answers is below 4096. -/
theorem resolve_lt {p : OobPolicy} {a a' : Nat} (h : resolve p a = some a') : a' < memSize := by
  unfold resolve at h
  split at h
  · simpa [← Option.some.inj h]
  · cases p with
    | fault => simp at h
    | wrap => rw [← Option.some.inj h]; exact Nat.mod_lt _ (by decide)

/-- The address rule answers the address modulo 4096, unless it faults. -/
theorem resolve_eq_some {p : OobPolicy} {a a' : Nat} :
    resolve p a = some a' ↔ (a < memSize ∨ p = .wrap) ∧ a' = a % memSize := by
  unfold resolve
  by_cases h : a < memSize
  · simp [h, Nat.mod_eq_of_lt h, eq_comm]
  · cases p <;> simp [h, eq_comm]

theorem resolve_eq_none {p : OobPolicy} {a : Nat} : resolve p a = none ↔ memSize ≤ a ∧ p = .fault := by
  unfold resolve
  by_cases h : a < memSize
  · simp [h, Nat.not_le.mpr h]
  · cases p <;> simp [h, Nat.not_lt.mp h]

/-- All addresses of a range resolve, in order, when none faults. -/
theorem resolveRange_ok {p : OobPolicy} {n base : Nat} (h : ∀ k < n, resolve p (base + k) ≠ none) :
    resolveRange p base n = .ok ((List.range n).map fun k => (base + k) % memSize) := by
  induction n generalizing base with
  | zero => rfl
  | succ n ih =>
    have h0 : resolve p base = some (base % memSize) := by
      cases h0 : resolve p base with
      | none => exact absurd h0 (h 0 (by omega))
      | some a => rw [(resolve_eq_some.mp h0).2]
    have := ih (base := base + 1) fun k hk => by
      have := h (k + 1) (by omega); rwa [show base + 1 + k = base + (k + 1) by omega]
    simp only [resolveRange, h0, this, List.range_succ_eq_map, List.map_cons, List.map_map, Nat.add_zero]
    congr 2
    refine List.map_congr_left fun k _ => ?_
    simp only [Function.comp_apply]; congr 1; omega

/-- A range faults at its lowest address that faults. -/
theorem resolveRange_error {p : OobPolicy} {n base j : Nat} (hj : j < n) (hbad : resolve p (base + j) = none)
    (hok : ∀ k < j, resolve p (base + k) ≠ none) : resolveRange p base n = .error (base + j) := by
  induction n generalizing base j with
  | zero => omega
  | succ n ih =>
    cases j with
    | zero => simp only [Nat.add_zero] at hbad; simp [resolveRange, hbad]
    | succ j =>
      cases h0 : resolve p base with
      | none => exact absurd h0 (hok 0 (by omega))
      | some a =>
        have hb : base + 1 + j = base + (j + 1) := by omega
        have := ih (base := base + 1) (j := j) (by omega) (by rwa [hb]) fun k hk => by
          have := hok (k + 1) (by omega); rwa [show base + 1 + k = base + (k + 1) by omega]
        simp only [resolveRange, h0, this, hb]

/-- The two answers of the range check. -/
theorem resolveRange_cases (p : OobPolicy) (n base : Nat) :
    ((∀ k < n, resolve p (base + k) ≠ none) ∧
        resolveRange p base n = .ok ((List.range n).map fun k => (base + k) % memSize)) ∨
      ∃ j < n, resolve p (base + j) = none ∧ (∀ k < j, resolve p (base + k) ≠ none) ∧
        resolveRange p base n = .error (base + j) := by
  by_cases h : ∀ k < n, resolve p (base + k) ≠ none
  · exact .inl ⟨h, resolveRange_ok h⟩
  · simp only [not_forall, not_not] at h
    obtain ⟨k, hk, hbad⟩ := h
    classical
    have hex : ∃ j, j < n ∧ resolve p (base + j) = none := ⟨k, hk, hbad⟩
    have hmin := Nat.find_spec hex
    have hlow : ∀ i < Nat.find hex, resolve p (base + i) ≠ none := fun i hi hn =>
      Nat.find_min hex hi ⟨by omega, hn⟩
    exact .inr ⟨Nat.find hex, hmin.1, hmin.2, hlow, resolveRange_error hmin.1 hmin.2 hlow⟩

end Sys2Proof.Machine
end

