-- ==== Sys2Proof/Laws/State.lean ====
section
/-! SUPPORT. One lemma per field per update of the state, each true by rfl, and the accessors under the updates that do
not touch what they read. -/

namespace Sys2Proof.Machine

variable (s : State)

@[simp] theorem State.setV_mem (x : Nibble) (b : Byte) : (s.setV x b).mem = s.mem := rfl
@[simp] theorem State.setV_v (x : Nibble) (b : Byte) : (s.setV x b).v = s.v.set x.toNat b x.isLt := rfl
@[simp] theorem State.setV_i (x : Nibble) (b : Byte) : (s.setV x b).i = s.i := rfl
@[simp] theorem State.setV_pc (x : Nibble) (b : Byte) : (s.setV x b).pc = s.pc := rfl
@[simp] theorem State.setV_sp (x : Nibble) (b : Byte) : (s.setV x b).sp = s.sp := rfl
@[simp] theorem State.setV_stack (x : Nibble) (b : Byte) : (s.setV x b).stack = s.stack := rfl
@[simp] theorem State.setV_dt (x : Nibble) (b : Byte) : (s.setV x b).dt = s.dt := rfl
@[simp] theorem State.setV_st (x : Nibble) (b : Byte) : (s.setV x b).st = s.st := rfl
@[simp] theorem State.setV_key (x : Nibble) (b : Byte) : (s.setV x b).key = s.key := rfl
@[simp] theorem State.setV_susp (x : Nibble) (b : Byte) : (s.setV x b).susp = s.susp := rfl
@[simp] theorem State.setV_waitReg (x : Nibble) (b : Byte) : (s.setV x b).waitReg = s.waitReg := rfl
@[simp] theorem State.setV_draw (x : Nibble) (b : Byte) : (s.setV x b).draw = s.draw := rfl
@[simp] theorem State.setV_fault (x : Nibble) (b : Byte) : (s.setV x b).fault = s.fault := rfl
@[simp] theorem State.setV_disp (x : Nibble) (b : Byte) : (s.setV x b).disp = s.disp := rfl
@[simp] theorem State.setV_cfg (x : Nibble) (b : Byte) : (s.setV x b).cfg = s.cfg := rfl
@[simp] theorem State.setV_draws (x : Nibble) (b : Byte) : (s.setV x b).draws = s.draws := rfl
@[simp] theorem State.setV_schedule (x : Nibble) (b : Byte) : (s.setV x b).schedule = s.schedule := rfl
@[simp] theorem State.setV_outbox (x : Nibble) (b : Byte) : (s.setV x b).outbox = s.outbox := rfl

@[simp] theorem State.setI_mem (w : Word) : (s.setI w).mem = s.mem := rfl
@[simp] theorem State.setI_v (w : Word) : (s.setI w).v = s.v := rfl
@[simp] theorem State.setI_i (w : Word) : (s.setI w).i = w := rfl
@[simp] theorem State.setI_pc (w : Word) : (s.setI w).pc = s.pc := rfl
@[simp] theorem State.setI_sp (w : Word) : (s.setI w).sp = s.sp := rfl
@[simp] theorem State.setI_stack (w : Word) : (s.setI w).stack = s.stack := rfl
@[simp] theorem State.setI_dt (w : Word) : (s.setI w).dt = s.dt := rfl
@[simp] theorem State.setI_st (w : Word) : (s.setI w).st = s.st := rfl
@[simp] theorem State.setI_key (w : Word) : (s.setI w).key = s.key := rfl
@[simp] theorem State.setI_susp (w : Word) : (s.setI w).susp = s.susp := rfl
@[simp] theorem State.setI_waitReg (w : Word) : (s.setI w).waitReg = s.waitReg := rfl
@[simp] theorem State.setI_draw (w : Word) : (s.setI w).draw = s.draw := rfl
@[simp] theorem State.setI_fault (w : Word) : (s.setI w).fault = s.fault := rfl
@[simp] theorem State.setI_disp (w : Word) : (s.setI w).disp = s.disp := rfl
@[simp] theorem State.setI_cfg (w : Word) : (s.setI w).cfg = s.cfg := rfl
@[simp] theorem State.setI_draws (w : Word) : (s.setI w).draws = s.draws := rfl
@[simp] theorem State.setI_schedule (w : Word) : (s.setI w).schedule = s.schedule := rfl
@[simp] theorem State.setI_outbox (w : Word) : (s.setI w).outbox = s.outbox := rfl

@[simp] theorem State.setPc_mem (w : Word) : (s.setPc w).mem = s.mem := rfl
@[simp] theorem State.setPc_v (w : Word) : (s.setPc w).v = s.v := rfl
@[simp] theorem State.setPc_i (w : Word) : (s.setPc w).i = s.i := rfl
@[simp] theorem State.setPc_pc (w : Word) : (s.setPc w).pc = w := rfl
@[simp] theorem State.setPc_sp (w : Word) : (s.setPc w).sp = s.sp := rfl
@[simp] theorem State.setPc_stack (w : Word) : (s.setPc w).stack = s.stack := rfl
@[simp] theorem State.setPc_dt (w : Word) : (s.setPc w).dt = s.dt := rfl
@[simp] theorem State.setPc_st (w : Word) : (s.setPc w).st = s.st := rfl
@[simp] theorem State.setPc_key (w : Word) : (s.setPc w).key = s.key := rfl
@[simp] theorem State.setPc_susp (w : Word) : (s.setPc w).susp = s.susp := rfl
@[simp] theorem State.setPc_waitReg (w : Word) : (s.setPc w).waitReg = s.waitReg := rfl
@[simp] theorem State.setPc_draw (w : Word) : (s.setPc w).draw = s.draw := rfl
@[simp] theorem State.setPc_fault (w : Word) : (s.setPc w).fault = s.fault := rfl
@[simp] theorem State.setPc_disp (w : Word) : (s.setPc w).disp = s.disp := rfl
@[simp] theorem State.setPc_cfg (w : Word) : (s.setPc w).cfg = s.cfg := rfl
@[simp] theorem State.setPc_draws (w : Word) : (s.setPc w).draws = s.draws := rfl
@[simp] theorem State.setPc_schedule (w : Word) : (s.setPc w).schedule = s.schedule := rfl
@[simp] theorem State.setPc_outbox (w : Word) : (s.setPc w).outbox = s.outbox := rfl

@[simp] theorem State.advance_mem (k : Word) : (s.advance k).mem = s.mem := rfl
@[simp] theorem State.advance_v (k : Word) : (s.advance k).v = s.v := rfl
@[simp] theorem State.advance_i (k : Word) : (s.advance k).i = s.i := rfl
@[simp] theorem State.advance_pc (k : Word) : (s.advance k).pc = s.pc + k := rfl
@[simp] theorem State.advance_sp (k : Word) : (s.advance k).sp = s.sp := rfl
@[simp] theorem State.advance_stack (k : Word) : (s.advance k).stack = s.stack := rfl
@[simp] theorem State.advance_dt (k : Word) : (s.advance k).dt = s.dt := rfl
@[simp] theorem State.advance_st (k : Word) : (s.advance k).st = s.st := rfl
@[simp] theorem State.advance_key (k : Word) : (s.advance k).key = s.key := rfl
@[simp] theorem State.advance_susp (k : Word) : (s.advance k).susp = s.susp := rfl
@[simp] theorem State.advance_waitReg (k : Word) : (s.advance k).waitReg = s.waitReg := rfl
@[simp] theorem State.advance_draw (k : Word) : (s.advance k).draw = s.draw := rfl
@[simp] theorem State.advance_fault (k : Word) : (s.advance k).fault = s.fault := rfl
@[simp] theorem State.advance_disp (k : Word) : (s.advance k).disp = s.disp := rfl
@[simp] theorem State.advance_cfg (k : Word) : (s.advance k).cfg = s.cfg := rfl
@[simp] theorem State.advance_draws (k : Word) : (s.advance k).draws = s.draws := rfl
@[simp] theorem State.advance_schedule (k : Word) : (s.advance k).schedule = s.schedule := rfl
@[simp] theorem State.advance_outbox (k : Word) : (s.advance k).outbox = s.outbox := rfl

@[simp] theorem State.setDt_mem (b : Byte) : (s.setDt b).mem = s.mem := rfl
@[simp] theorem State.setDt_v (b : Byte) : (s.setDt b).v = s.v := rfl
@[simp] theorem State.setDt_i (b : Byte) : (s.setDt b).i = s.i := rfl
@[simp] theorem State.setDt_pc (b : Byte) : (s.setDt b).pc = s.pc := rfl
@[simp] theorem State.setDt_sp (b : Byte) : (s.setDt b).sp = s.sp := rfl
@[simp] theorem State.setDt_stack (b : Byte) : (s.setDt b).stack = s.stack := rfl
@[simp] theorem State.setDt_dt (b : Byte) : (s.setDt b).dt = b := rfl
@[simp] theorem State.setDt_st (b : Byte) : (s.setDt b).st = s.st := rfl
@[simp] theorem State.setDt_key (b : Byte) : (s.setDt b).key = s.key := rfl
@[simp] theorem State.setDt_susp (b : Byte) : (s.setDt b).susp = s.susp := rfl
@[simp] theorem State.setDt_waitReg (b : Byte) : (s.setDt b).waitReg = s.waitReg := rfl
@[simp] theorem State.setDt_draw (b : Byte) : (s.setDt b).draw = s.draw := rfl
@[simp] theorem State.setDt_fault (b : Byte) : (s.setDt b).fault = s.fault := rfl
@[simp] theorem State.setDt_disp (b : Byte) : (s.setDt b).disp = s.disp := rfl
@[simp] theorem State.setDt_cfg (b : Byte) : (s.setDt b).cfg = s.cfg := rfl
@[simp] theorem State.setDt_draws (b : Byte) : (s.setDt b).draws = s.draws := rfl
@[simp] theorem State.setDt_schedule (b : Byte) : (s.setDt b).schedule = s.schedule := rfl
@[simp] theorem State.setDt_outbox (b : Byte) : (s.setDt b).outbox = s.outbox := rfl

@[simp] theorem State.setSt_mem (b : Byte) : (s.setSt b).mem = s.mem := rfl
@[simp] theorem State.setSt_v (b : Byte) : (s.setSt b).v = s.v := rfl
@[simp] theorem State.setSt_i (b : Byte) : (s.setSt b).i = s.i := rfl
@[simp] theorem State.setSt_pc (b : Byte) : (s.setSt b).pc = s.pc := rfl
@[simp] theorem State.setSt_sp (b : Byte) : (s.setSt b).sp = s.sp := rfl
@[simp] theorem State.setSt_stack (b : Byte) : (s.setSt b).stack = s.stack := rfl
@[simp] theorem State.setSt_dt (b : Byte) : (s.setSt b).dt = s.dt := rfl
@[simp] theorem State.setSt_st (b : Byte) : (s.setSt b).st = b := rfl
@[simp] theorem State.setSt_key (b : Byte) : (s.setSt b).key = s.key := rfl
@[simp] theorem State.setSt_susp (b : Byte) : (s.setSt b).susp = s.susp := rfl
@[simp] theorem State.setSt_waitReg (b : Byte) : (s.setSt b).waitReg = s.waitReg := rfl
@[simp] theorem State.setSt_draw (b : Byte) : (s.setSt b).draw = s.draw := rfl
@[simp] theorem State.setSt_fault (b : Byte) : (s.setSt b).fault = s.fault := rfl
@[simp] theorem State.setSt_disp (b : Byte) : (s.setSt b).disp = s.disp := rfl
@[simp] theorem State.setSt_cfg (b : Byte) : (s.setSt b).cfg = s.cfg := rfl
@[simp] theorem State.setSt_draws (b : Byte) : (s.setSt b).draws = s.draws := rfl
@[simp] theorem State.setSt_schedule (b : Byte) : (s.setSt b).schedule = s.schedule := rfl
@[simp] theorem State.setSt_outbox (b : Byte) : (s.setSt b).outbox = s.outbox := rfl

@[simp] theorem State.setKeyFlag_mem (k : Nibble) (p : Bool) : (s.setKeyFlag k p).mem = s.mem := rfl
@[simp] theorem State.setKeyFlag_v (k : Nibble) (p : Bool) : (s.setKeyFlag k p).v = s.v := rfl
@[simp] theorem State.setKeyFlag_i (k : Nibble) (p : Bool) : (s.setKeyFlag k p).i = s.i := rfl
@[simp] theorem State.setKeyFlag_pc (k : Nibble) (p : Bool) : (s.setKeyFlag k p).pc = s.pc := rfl
@[simp] theorem State.setKeyFlag_sp (k : Nibble) (p : Bool) : (s.setKeyFlag k p).sp = s.sp := rfl
@[simp] theorem State.setKeyFlag_stack (k : Nibble) (p : Bool) : (s.setKeyFlag k p).stack = s.stack := rfl
@[simp] theorem State.setKeyFlag_dt (k : Nibble) (p : Bool) : (s.setKeyFlag k p).dt = s.dt := rfl
@[simp] theorem State.setKeyFlag_st (k : Nibble) (p : Bool) : (s.setKeyFlag k p).st = s.st := rfl
@[simp] theorem State.setKeyFlag_key (k : Nibble) (p : Bool) : (s.setKeyFlag k p).key = s.key.set k.toNat p k.isLt := rfl
@[simp] theorem State.setKeyFlag_susp (k : Nibble) (p : Bool) : (s.setKeyFlag k p).susp = s.susp := rfl
@[simp] theorem State.setKeyFlag_waitReg (k : Nibble) (p : Bool) : (s.setKeyFlag k p).waitReg = s.waitReg := rfl
@[simp] theorem State.setKeyFlag_draw (k : Nibble) (p : Bool) : (s.setKeyFlag k p).draw = s.draw := rfl
@[simp] theorem State.setKeyFlag_fault (k : Nibble) (p : Bool) : (s.setKeyFlag k p).fault = s.fault := rfl
@[simp] theorem State.setKeyFlag_disp (k : Nibble) (p : Bool) : (s.setKeyFlag k p).disp = s.disp := rfl
@[simp] theorem State.setKeyFlag_cfg (k : Nibble) (p : Bool) : (s.setKeyFlag k p).cfg = s.cfg := rfl
@[simp] theorem State.setKeyFlag_draws (k : Nibble) (p : Bool) : (s.setKeyFlag k p).draws = s.draws := rfl
@[simp] theorem State.setKeyFlag_schedule (k : Nibble) (p : Bool) : (s.setKeyFlag k p).schedule = s.schedule := rfl
@[simp] theorem State.setKeyFlag_outbox (k : Nibble) (p : Bool) : (s.setKeyFlag k p).outbox = s.outbox := rfl

@[simp] theorem State.clearKeys_mem : s.clearKeys.mem = s.mem := rfl
@[simp] theorem State.clearKeys_v : s.clearKeys.v = s.v := rfl
@[simp] theorem State.clearKeys_i : s.clearKeys.i = s.i := rfl
@[simp] theorem State.clearKeys_pc : s.clearKeys.pc = s.pc := rfl
@[simp] theorem State.clearKeys_sp : s.clearKeys.sp = s.sp := rfl
@[simp] theorem State.clearKeys_stack : s.clearKeys.stack = s.stack := rfl
@[simp] theorem State.clearKeys_dt : s.clearKeys.dt = s.dt := rfl
@[simp] theorem State.clearKeys_st : s.clearKeys.st = s.st := rfl
@[simp] theorem State.clearKeys_key : s.clearKeys.key = Vector.replicate 16 false := rfl
@[simp] theorem State.clearKeys_susp : s.clearKeys.susp = s.susp := rfl
@[simp] theorem State.clearKeys_waitReg : s.clearKeys.waitReg = s.waitReg := rfl
@[simp] theorem State.clearKeys_draw : s.clearKeys.draw = s.draw := rfl
@[simp] theorem State.clearKeys_fault : s.clearKeys.fault = s.fault := rfl
@[simp] theorem State.clearKeys_disp : s.clearKeys.disp = s.disp := rfl
@[simp] theorem State.clearKeys_cfg : s.clearKeys.cfg = s.cfg := rfl
@[simp] theorem State.clearKeys_draws : s.clearKeys.draws = s.draws := rfl
@[simp] theorem State.clearKeys_schedule : s.clearKeys.schedule = s.schedule := rfl
@[simp] theorem State.clearKeys_outbox : s.clearKeys.outbox = s.outbox := rfl

@[simp] theorem State.suspend_mem (x : Nibble) : (s.suspend x).mem = s.mem := rfl
@[simp] theorem State.suspend_v (x : Nibble) : (s.suspend x).v = s.v := rfl
@[simp] theorem State.suspend_i (x : Nibble) : (s.suspend x).i = s.i := rfl
@[simp] theorem State.suspend_pc (x : Nibble) : (s.suspend x).pc = s.pc := rfl
@[simp] theorem State.suspend_sp (x : Nibble) : (s.suspend x).sp = s.sp := rfl
@[simp] theorem State.suspend_stack (x : Nibble) : (s.suspend x).stack = s.stack := rfl
@[simp] theorem State.suspend_dt (x : Nibble) : (s.suspend x).dt = s.dt := rfl
@[simp] theorem State.suspend_st (x : Nibble) : (s.suspend x).st = s.st := rfl
@[simp] theorem State.suspend_key (x : Nibble) : (s.suspend x).key = s.key := rfl
@[simp] theorem State.suspend_susp (x : Nibble) : (s.suspend x).susp = true := rfl
@[simp] theorem State.suspend_waitReg (x : Nibble) : (s.suspend x).waitReg = x := rfl
@[simp] theorem State.suspend_draw (x : Nibble) : (s.suspend x).draw = s.draw := rfl
@[simp] theorem State.suspend_fault (x : Nibble) : (s.suspend x).fault = s.fault := rfl
@[simp] theorem State.suspend_disp (x : Nibble) : (s.suspend x).disp = s.disp := rfl
@[simp] theorem State.suspend_cfg (x : Nibble) : (s.suspend x).cfg = s.cfg := rfl
@[simp] theorem State.suspend_draws (x : Nibble) : (s.suspend x).draws = s.draws := rfl
@[simp] theorem State.suspend_schedule (x : Nibble) : (s.suspend x).schedule = s.schedule := rfl
@[simp] theorem State.suspend_outbox (x : Nibble) : (s.suspend x).outbox = s.outbox := rfl

@[simp] theorem State.resume_mem : s.resume.mem = s.mem := rfl
@[simp] theorem State.resume_v : s.resume.v = s.v := rfl
@[simp] theorem State.resume_i : s.resume.i = s.i := rfl
@[simp] theorem State.resume_pc : s.resume.pc = s.pc := rfl
@[simp] theorem State.resume_sp : s.resume.sp = s.sp := rfl
@[simp] theorem State.resume_stack : s.resume.stack = s.stack := rfl
@[simp] theorem State.resume_dt : s.resume.dt = s.dt := rfl
@[simp] theorem State.resume_st : s.resume.st = s.st := rfl
@[simp] theorem State.resume_key : s.resume.key = s.key := rfl
@[simp] theorem State.resume_susp : s.resume.susp = false := rfl
@[simp] theorem State.resume_waitReg : s.resume.waitReg = s.waitReg := rfl
@[simp] theorem State.resume_draw : s.resume.draw = s.draw := rfl
@[simp] theorem State.resume_fault : s.resume.fault = s.fault := rfl
@[simp] theorem State.resume_disp : s.resume.disp = s.disp := rfl
@[simp] theorem State.resume_cfg : s.resume.cfg = s.cfg := rfl
@[simp] theorem State.resume_draws : s.resume.draws = s.draws := rfl
@[simp] theorem State.resume_schedule : s.resume.schedule = s.schedule := rfl
@[simp] theorem State.resume_outbox : s.resume.outbox = s.outbox := rfl

@[simp] theorem State.setDraw_mem (b : Bool) : (s.setDraw b).mem = s.mem := rfl
@[simp] theorem State.setDraw_v (b : Bool) : (s.setDraw b).v = s.v := rfl
@[simp] theorem State.setDraw_i (b : Bool) : (s.setDraw b).i = s.i := rfl
@[simp] theorem State.setDraw_pc (b : Bool) : (s.setDraw b).pc = s.pc := rfl
@[simp] theorem State.setDraw_sp (b : Bool) : (s.setDraw b).sp = s.sp := rfl
@[simp] theorem State.setDraw_stack (b : Bool) : (s.setDraw b).stack = s.stack := rfl
@[simp] theorem State.setDraw_dt (b : Bool) : (s.setDraw b).dt = s.dt := rfl
@[simp] theorem State.setDraw_st (b : Bool) : (s.setDraw b).st = s.st := rfl
@[simp] theorem State.setDraw_key (b : Bool) : (s.setDraw b).key = s.key := rfl
@[simp] theorem State.setDraw_susp (b : Bool) : (s.setDraw b).susp = s.susp := rfl
@[simp] theorem State.setDraw_waitReg (b : Bool) : (s.setDraw b).waitReg = s.waitReg := rfl
@[simp] theorem State.setDraw_draw (b : Bool) : (s.setDraw b).draw = b := rfl
@[simp] theorem State.setDraw_fault (b : Bool) : (s.setDraw b).fault = s.fault := rfl
@[simp] theorem State.setDraw_disp (b : Bool) : (s.setDraw b).disp = s.disp := rfl
@[simp] theorem State.setDraw_cfg (b : Bool) : (s.setDraw b).cfg = s.cfg := rfl
@[simp] theorem State.setDraw_draws (b : Bool) : (s.setDraw b).draws = s.draws := rfl
@[simp] theorem State.setDraw_schedule (b : Bool) : (s.setDraw b).schedule = s.schedule := rfl
@[simp] theorem State.setDraw_outbox (b : Bool) : (s.setDraw b).outbox = s.outbox := rfl

@[simp] theorem State.setDisp_mem (d : Display) : (s.setDisp d).mem = s.mem := rfl
@[simp] theorem State.setDisp_v (d : Display) : (s.setDisp d).v = s.v := rfl
@[simp] theorem State.setDisp_i (d : Display) : (s.setDisp d).i = s.i := rfl
@[simp] theorem State.setDisp_pc (d : Display) : (s.setDisp d).pc = s.pc := rfl
@[simp] theorem State.setDisp_sp (d : Display) : (s.setDisp d).sp = s.sp := rfl
@[simp] theorem State.setDisp_stack (d : Display) : (s.setDisp d).stack = s.stack := rfl
@[simp] theorem State.setDisp_dt (d : Display) : (s.setDisp d).dt = s.dt := rfl
@[simp] theorem State.setDisp_st (d : Display) : (s.setDisp d).st = s.st := rfl
@[simp] theorem State.setDisp_key (d : Display) : (s.setDisp d).key = s.key := rfl
@[simp] theorem State.setDisp_susp (d : Display) : (s.setDisp d).susp = s.susp := rfl
@[simp] theorem State.setDisp_waitReg (d : Display) : (s.setDisp d).waitReg = s.waitReg := rfl
@[simp] theorem State.setDisp_draw (d : Display) : (s.setDisp d).draw = s.draw := rfl
@[simp] theorem State.setDisp_fault (d : Display) : (s.setDisp d).fault = s.fault := rfl
@[simp] theorem State.setDisp_disp (d : Display) : (s.setDisp d).disp = d := rfl
@[simp] theorem State.setDisp_cfg (d : Display) : (s.setDisp d).cfg = s.cfg := rfl
@[simp] theorem State.setDisp_draws (d : Display) : (s.setDisp d).draws = s.draws := rfl
@[simp] theorem State.setDisp_schedule (d : Display) : (s.setDisp d).schedule = s.schedule := rfl
@[simp] theorem State.setDisp_outbox (d : Display) : (s.setDisp d).outbox = s.outbox := rfl

@[simp] theorem State.recordFault_mem (c : FaultCause) (n : Nat) : (s.recordFault c n).mem = s.mem := rfl
@[simp] theorem State.recordFault_v (c : FaultCause) (n : Nat) : (s.recordFault c n).v = s.v := rfl
@[simp] theorem State.recordFault_i (c : FaultCause) (n : Nat) : (s.recordFault c n).i = s.i := rfl
@[simp] theorem State.recordFault_pc (c : FaultCause) (n : Nat) : (s.recordFault c n).pc = s.pc := rfl
@[simp] theorem State.recordFault_sp (c : FaultCause) (n : Nat) : (s.recordFault c n).sp = s.sp := rfl
@[simp] theorem State.recordFault_stack (c : FaultCause) (n : Nat) : (s.recordFault c n).stack = s.stack := rfl
@[simp] theorem State.recordFault_dt (c : FaultCause) (n : Nat) : (s.recordFault c n).dt = s.dt := rfl
@[simp] theorem State.recordFault_st (c : FaultCause) (n : Nat) : (s.recordFault c n).st = s.st := rfl
@[simp] theorem State.recordFault_key (c : FaultCause) (n : Nat) : (s.recordFault c n).key = s.key := rfl
@[simp] theorem State.recordFault_susp (c : FaultCause) (n : Nat) : (s.recordFault c n).susp = s.susp := rfl
@[simp] theorem State.recordFault_waitReg (c : FaultCause) (n : Nat) : (s.recordFault c n).waitReg = s.waitReg := rfl
@[simp] theorem State.recordFault_draw (c : FaultCause) (n : Nat) : (s.recordFault c n).draw = s.draw := rfl
@[simp] theorem State.recordFault_fault (c : FaultCause) (n : Nat) : (s.recordFault c n).fault = some ⟨c, s.pc, n⟩ := rfl
@[simp] theorem State.recordFault_disp (c : FaultCause) (n : Nat) : (s.recordFault c n).disp = s.disp := rfl
@[simp] theorem State.recordFault_cfg (c : FaultCause) (n : Nat) : (s.recordFault c n).cfg = s.cfg := rfl
@[simp] theorem State.recordFault_draws (c : FaultCause) (n : Nat) : (s.recordFault c n).draws = s.draws := rfl
@[simp] theorem State.recordFault_schedule (c : FaultCause) (n : Nat) : (s.recordFault c n).schedule = s.schedule := rfl
@[simp] theorem State.recordFault_outbox (c : FaultCause) (n : Nat) : (s.recordFault c n).outbox = s.outbox := rfl

@[simp] theorem State.push_mem (w : Word) (h : s.sp.val < 16) : (s.push w h).mem = s.mem := rfl
@[simp] theorem State.push_v (w : Word) (h : s.sp.val < 16) : (s.push w h).v = s.v := rfl
@[simp] theorem State.push_i (w : Word) (h : s.sp.val < 16) : (s.push w h).i = s.i := rfl
@[simp] theorem State.push_pc (w : Word) (h : s.sp.val < 16) : (s.push w h).pc = s.pc := rfl
@[simp] theorem State.push_sp (w : Word) (h : s.sp.val < 16) : (s.push w h).sp = ⟨s.sp.val + 1, Nat.succ_lt_succ h⟩ := rfl
@[simp] theorem State.push_stack (w : Word) (h : s.sp.val < 16) : (s.push w h).stack = s.stack.set s.sp.val w h := rfl
@[simp] theorem State.push_dt (w : Word) (h : s.sp.val < 16) : (s.push w h).dt = s.dt := rfl
@[simp] theorem State.push_st (w : Word) (h : s.sp.val < 16) : (s.push w h).st = s.st := rfl
@[simp] theorem State.push_key (w : Word) (h : s.sp.val < 16) : (s.push w h).key = s.key := rfl
@[simp] theorem State.push_susp (w : Word) (h : s.sp.val < 16) : (s.push w h).susp = s.susp := rfl
@[simp] theorem State.push_waitReg (w : Word) (h : s.sp.val < 16) : (s.push w h).waitReg = s.waitReg := rfl
@[simp] theorem State.push_draw (w : Word) (h : s.sp.val < 16) : (s.push w h).draw = s.draw := rfl
@[simp] theorem State.push_fault (w : Word) (h : s.sp.val < 16) : (s.push w h).fault = s.fault := rfl
@[simp] theorem State.push_disp (w : Word) (h : s.sp.val < 16) : (s.push w h).disp = s.disp := rfl
@[simp] theorem State.push_cfg (w : Word) (h : s.sp.val < 16) : (s.push w h).cfg = s.cfg := rfl
@[simp] theorem State.push_draws (w : Word) (h : s.sp.val < 16) : (s.push w h).draws = s.draws := rfl
@[simp] theorem State.push_schedule (w : Word) (h : s.sp.val < 16) : (s.push w h).schedule = s.schedule := rfl
@[simp] theorem State.push_outbox (w : Word) (h : s.sp.val < 16) : (s.push w h).outbox = s.outbox := rfl

@[simp] theorem State.pop_mem : s.pop.mem = s.mem := rfl
@[simp] theorem State.pop_v : s.pop.v = s.v := rfl
@[simp] theorem State.pop_i : s.pop.i = s.i := rfl
@[simp] theorem State.pop_pc : s.pop.pc = s.pc := rfl
@[simp] theorem State.pop_sp : s.pop.sp = ⟨s.sp.val - 1, Nat.lt_of_le_of_lt (Nat.sub_le _ _) s.sp.isLt⟩ := rfl
@[simp] theorem State.pop_stack : s.pop.stack = s.stack := rfl
@[simp] theorem State.pop_dt : s.pop.dt = s.dt := rfl
@[simp] theorem State.pop_st : s.pop.st = s.st := rfl
@[simp] theorem State.pop_key : s.pop.key = s.key := rfl
@[simp] theorem State.pop_susp : s.pop.susp = s.susp := rfl
@[simp] theorem State.pop_waitReg : s.pop.waitReg = s.waitReg := rfl
@[simp] theorem State.pop_draw : s.pop.draw = s.draw := rfl
@[simp] theorem State.pop_fault : s.pop.fault = s.fault := rfl
@[simp] theorem State.pop_disp : s.pop.disp = s.disp := rfl
@[simp] theorem State.pop_cfg : s.pop.cfg = s.cfg := rfl
@[simp] theorem State.pop_draws : s.pop.draws = s.draws := rfl
@[simp] theorem State.pop_schedule : s.pop.schedule = s.schedule := rfl
@[simp] theorem State.pop_outbox : s.pop.outbox = s.outbox := rfl

@[simp] theorem State.writeByte_mem (a : Nat) (b : Byte) : (s.writeByte a b).mem = Memory.write s.dflt s.mem a b := rfl
@[simp] theorem State.writeByte_v (a : Nat) (b : Byte) : (s.writeByte a b).v = s.v := rfl
@[simp] theorem State.writeByte_i (a : Nat) (b : Byte) : (s.writeByte a b).i = s.i := rfl
@[simp] theorem State.writeByte_pc (a : Nat) (b : Byte) : (s.writeByte a b).pc = s.pc := rfl
@[simp] theorem State.writeByte_sp (a : Nat) (b : Byte) : (s.writeByte a b).sp = s.sp := rfl
@[simp] theorem State.writeByte_stack (a : Nat) (b : Byte) : (s.writeByte a b).stack = s.stack := rfl
@[simp] theorem State.writeByte_dt (a : Nat) (b : Byte) : (s.writeByte a b).dt = s.dt := rfl
@[simp] theorem State.writeByte_st (a : Nat) (b : Byte) : (s.writeByte a b).st = s.st := rfl
@[simp] theorem State.writeByte_key (a : Nat) (b : Byte) : (s.writeByte a b).key = s.key := rfl
@[simp] theorem State.writeByte_susp (a : Nat) (b : Byte) : (s.writeByte a b).susp = s.susp := rfl
@[simp] theorem State.writeByte_waitReg (a : Nat) (b : Byte) : (s.writeByte a b).waitReg = s.waitReg := rfl
@[simp] theorem State.writeByte_draw (a : Nat) (b : Byte) : (s.writeByte a b).draw = s.draw := rfl
@[simp] theorem State.writeByte_fault (a : Nat) (b : Byte) : (s.writeByte a b).fault = s.fault := rfl
@[simp] theorem State.writeByte_disp (a : Nat) (b : Byte) : (s.writeByte a b).disp = s.disp := rfl
@[simp] theorem State.writeByte_cfg (a : Nat) (b : Byte) : (s.writeByte a b).cfg = s.cfg := rfl
@[simp] theorem State.writeByte_draws (a : Nat) (b : Byte) : (s.writeByte a b).draws = s.draws := rfl
@[simp] theorem State.writeByte_schedule (a : Nat) (b : Byte) : (s.writeByte a b).schedule = s.schedule := rfl
@[simp] theorem State.writeByte_outbox (a : Nat) (b : Byte) : (s.writeByte a b).outbox = s.outbox := rfl

@[simp] theorem State.countDraw_mem : s.countDraw.mem = s.mem := rfl
@[simp] theorem State.countDraw_v : s.countDraw.v = s.v := rfl
@[simp] theorem State.countDraw_i : s.countDraw.i = s.i := rfl
@[simp] theorem State.countDraw_pc : s.countDraw.pc = s.pc := rfl
@[simp] theorem State.countDraw_sp : s.countDraw.sp = s.sp := rfl
@[simp] theorem State.countDraw_stack : s.countDraw.stack = s.stack := rfl
@[simp] theorem State.countDraw_dt : s.countDraw.dt = s.dt := rfl
@[simp] theorem State.countDraw_st : s.countDraw.st = s.st := rfl
@[simp] theorem State.countDraw_key : s.countDraw.key = s.key := rfl
@[simp] theorem State.countDraw_susp : s.countDraw.susp = s.susp := rfl
@[simp] theorem State.countDraw_waitReg : s.countDraw.waitReg = s.waitReg := rfl
@[simp] theorem State.countDraw_draw : s.countDraw.draw = s.draw := rfl
@[simp] theorem State.countDraw_fault : s.countDraw.fault = s.fault := rfl
@[simp] theorem State.countDraw_disp : s.countDraw.disp = s.disp := rfl
@[simp] theorem State.countDraw_cfg : s.countDraw.cfg = s.cfg := rfl
@[simp] theorem State.countDraw_draws : s.countDraw.draws = s.draws + 1 := rfl
@[simp] theorem State.countDraw_schedule : s.countDraw.schedule = s.schedule := rfl
@[simp] theorem State.countDraw_outbox : s.countDraw.outbox = s.outbox := rfl

@[simp] theorem State.emit_mem (r : HostReply) : (s.emit r).mem = s.mem := rfl
@[simp] theorem State.emit_v (r : HostReply) : (s.emit r).v = s.v := rfl
@[simp] theorem State.emit_i (r : HostReply) : (s.emit r).i = s.i := rfl
@[simp] theorem State.emit_pc (r : HostReply) : (s.emit r).pc = s.pc := rfl
@[simp] theorem State.emit_sp (r : HostReply) : (s.emit r).sp = s.sp := rfl
@[simp] theorem State.emit_stack (r : HostReply) : (s.emit r).stack = s.stack := rfl
@[simp] theorem State.emit_dt (r : HostReply) : (s.emit r).dt = s.dt := rfl
@[simp] theorem State.emit_st (r : HostReply) : (s.emit r).st = s.st := rfl
@[simp] theorem State.emit_key (r : HostReply) : (s.emit r).key = s.key := rfl
@[simp] theorem State.emit_susp (r : HostReply) : (s.emit r).susp = s.susp := rfl
@[simp] theorem State.emit_waitReg (r : HostReply) : (s.emit r).waitReg = s.waitReg := rfl
@[simp] theorem State.emit_draw (r : HostReply) : (s.emit r).draw = s.draw := rfl
@[simp] theorem State.emit_fault (r : HostReply) : (s.emit r).fault = s.fault := rfl
@[simp] theorem State.emit_disp (r : HostReply) : (s.emit r).disp = s.disp := rfl
@[simp] theorem State.emit_cfg (r : HostReply) : (s.emit r).cfg = s.cfg := rfl
@[simp] theorem State.emit_draws (r : HostReply) : (s.emit r).draws = s.draws := rfl
@[simp] theorem State.emit_schedule (r : HostReply) : (s.emit r).schedule = s.schedule := rfl
@[simp] theorem State.emit_outbox (r : HostReply) : (s.emit r).outbox = r :: s.outbox := rfl

@[simp] theorem State.setSchedule_mem (cs : List HostCall) : (s.setSchedule cs).mem = s.mem := rfl
@[simp] theorem State.setSchedule_v (cs : List HostCall) : (s.setSchedule cs).v = s.v := rfl
@[simp] theorem State.setSchedule_i (cs : List HostCall) : (s.setSchedule cs).i = s.i := rfl
@[simp] theorem State.setSchedule_pc (cs : List HostCall) : (s.setSchedule cs).pc = s.pc := rfl
@[simp] theorem State.setSchedule_sp (cs : List HostCall) : (s.setSchedule cs).sp = s.sp := rfl
@[simp] theorem State.setSchedule_stack (cs : List HostCall) : (s.setSchedule cs).stack = s.stack := rfl
@[simp] theorem State.setSchedule_dt (cs : List HostCall) : (s.setSchedule cs).dt = s.dt := rfl
@[simp] theorem State.setSchedule_st (cs : List HostCall) : (s.setSchedule cs).st = s.st := rfl
@[simp] theorem State.setSchedule_key (cs : List HostCall) : (s.setSchedule cs).key = s.key := rfl
@[simp] theorem State.setSchedule_susp (cs : List HostCall) : (s.setSchedule cs).susp = s.susp := rfl
@[simp] theorem State.setSchedule_waitReg (cs : List HostCall) : (s.setSchedule cs).waitReg = s.waitReg := rfl
@[simp] theorem State.setSchedule_draw (cs : List HostCall) : (s.setSchedule cs).draw = s.draw := rfl
@[simp] theorem State.setSchedule_fault (cs : List HostCall) : (s.setSchedule cs).fault = s.fault := rfl
@[simp] theorem State.setSchedule_disp (cs : List HostCall) : (s.setSchedule cs).disp = s.disp := rfl
@[simp] theorem State.setSchedule_cfg (cs : List HostCall) : (s.setSchedule cs).cfg = s.cfg := rfl
@[simp] theorem State.setSchedule_draws (cs : List HostCall) : (s.setSchedule cs).draws = s.draws := rfl
@[simp] theorem State.setSchedule_schedule (cs : List HostCall) : (s.setSchedule cs).schedule = cs := rfl
@[simp] theorem State.setSchedule_outbox (cs : List HostCall) : (s.setSchedule cs).outbox = s.outbox := rfl

@[simp] theorem State.getV_setI (w : Word) (y : Nibble) : (s.setI w).getV y = s.getV y := rfl
@[simp] theorem State.getV_setPc (w : Word) (y : Nibble) : (s.setPc w).getV y = s.getV y := rfl
@[simp] theorem State.getV_advance (k : Word) (y : Nibble) : (s.advance k).getV y = s.getV y := rfl
@[simp] theorem State.getV_setDt (b : Byte) (y : Nibble) : (s.setDt b).getV y = s.getV y := rfl
@[simp] theorem State.getV_setSt (b : Byte) (y : Nibble) : (s.setSt b).getV y = s.getV y := rfl
@[simp] theorem State.getV_setKeyFlag (k : Nibble) (p : Bool) (y : Nibble) : (s.setKeyFlag k p).getV y = s.getV y := rfl
@[simp] theorem State.getV_clearKeys (y : Nibble) : s.clearKeys.getV y = s.getV y := rfl
@[simp] theorem State.getV_suspend (x : Nibble) (y : Nibble) : (s.suspend x).getV y = s.getV y := rfl
@[simp] theorem State.getV_resume (y : Nibble) : s.resume.getV y = s.getV y := rfl
@[simp] theorem State.getV_setDraw (b : Bool) (y : Nibble) : (s.setDraw b).getV y = s.getV y := rfl
@[simp] theorem State.getV_setDisp (d : Display) (y : Nibble) : (s.setDisp d).getV y = s.getV y := rfl
@[simp] theorem State.getV_recordFault (c : FaultCause) (n : Nat) (y : Nibble) : (s.recordFault c n).getV y = s.getV y := rfl
@[simp] theorem State.getV_push (w : Word) (h : s.sp.val < 16) (y : Nibble) : (s.push w h).getV y = s.getV y := rfl
@[simp] theorem State.getV_pop (y : Nibble) : s.pop.getV y = s.getV y := rfl
@[simp] theorem State.getV_writeByte (a : Nat) (b : Byte) (y : Nibble) : (s.writeByte a b).getV y = s.getV y := rfl
@[simp] theorem State.getV_countDraw (y : Nibble) : s.countDraw.getV y = s.getV y := rfl
@[simp] theorem State.getV_emit (r : HostReply) (y : Nibble) : (s.emit r).getV y = s.getV y := rfl
@[simp] theorem State.getV_setSchedule (cs : List HostCall) (y : Nibble) : (s.setSchedule cs).getV y = s.getV y := rfl

@[simp] theorem State.getKey_setV (x : Nibble) (b : Byte) (j : Nibble) : (s.setV x b).getKey j = s.getKey j := rfl
@[simp] theorem State.getKey_setI (w : Word) (j : Nibble) : (s.setI w).getKey j = s.getKey j := rfl
@[simp] theorem State.getKey_setPc (w : Word) (j : Nibble) : (s.setPc w).getKey j = s.getKey j := rfl
@[simp] theorem State.getKey_advance (k : Word) (j : Nibble) : (s.advance k).getKey j = s.getKey j := rfl
@[simp] theorem State.getKey_setDt (b : Byte) (j : Nibble) : (s.setDt b).getKey j = s.getKey j := rfl
@[simp] theorem State.getKey_setSt (b : Byte) (j : Nibble) : (s.setSt b).getKey j = s.getKey j := rfl
@[simp] theorem State.getKey_suspend (x : Nibble) (j : Nibble) : (s.suspend x).getKey j = s.getKey j := rfl
@[simp] theorem State.getKey_resume (j : Nibble) : s.resume.getKey j = s.getKey j := rfl
@[simp] theorem State.getKey_setDraw (b : Bool) (j : Nibble) : (s.setDraw b).getKey j = s.getKey j := rfl
@[simp] theorem State.getKey_setDisp (d : Display) (j : Nibble) : (s.setDisp d).getKey j = s.getKey j := rfl
@[simp] theorem State.getKey_recordFault (c : FaultCause) (n : Nat) (j : Nibble) : (s.recordFault c n).getKey j = s.getKey j := rfl
@[simp] theorem State.getKey_push (w : Word) (h : s.sp.val < 16) (j : Nibble) : (s.push w h).getKey j = s.getKey j := rfl
@[simp] theorem State.getKey_pop (j : Nibble) : s.pop.getKey j = s.getKey j := rfl
@[simp] theorem State.getKey_writeByte (a : Nat) (b : Byte) (j : Nibble) : (s.writeByte a b).getKey j = s.getKey j := rfl
@[simp] theorem State.getKey_countDraw (j : Nibble) : s.countDraw.getKey j = s.getKey j := rfl
@[simp] theorem State.getKey_emit (r : HostReply) (j : Nibble) : (s.emit r).getKey j = s.getKey j := rfl
@[simp] theorem State.getKey_setSchedule (cs : List HostCall) (j : Nibble) : (s.setSchedule cs).getKey j = s.getKey j := rfl

@[simp] theorem State.readByte_setV (x : Nibble) (b : Byte) (c : Nat) : (s.setV x b).readByte c = s.readByte c := rfl
@[simp] theorem State.readByte_setI (w : Word) (c : Nat) : (s.setI w).readByte c = s.readByte c := rfl
@[simp] theorem State.readByte_setPc (w : Word) (c : Nat) : (s.setPc w).readByte c = s.readByte c := rfl
@[simp] theorem State.readByte_advance (k : Word) (c : Nat) : (s.advance k).readByte c = s.readByte c := rfl
@[simp] theorem State.readByte_setDt (b : Byte) (c : Nat) : (s.setDt b).readByte c = s.readByte c := rfl
@[simp] theorem State.readByte_setSt (b : Byte) (c : Nat) : (s.setSt b).readByte c = s.readByte c := rfl
@[simp] theorem State.readByte_setKeyFlag (k : Nibble) (p : Bool) (c : Nat) : (s.setKeyFlag k p).readByte c = s.readByte c := rfl
@[simp] theorem State.readByte_clearKeys (c : Nat) : s.clearKeys.readByte c = s.readByte c := rfl
@[simp] theorem State.readByte_suspend (x : Nibble) (c : Nat) : (s.suspend x).readByte c = s.readByte c := rfl
@[simp] theorem State.readByte_resume (c : Nat) : s.resume.readByte c = s.readByte c := rfl
@[simp] theorem State.readByte_setDraw (b : Bool) (c : Nat) : (s.setDraw b).readByte c = s.readByte c := rfl
@[simp] theorem State.readByte_setDisp (d : Display) (c : Nat) : (s.setDisp d).readByte c = s.readByte c := rfl
@[simp] theorem State.readByte_recordFault (e : FaultCause) (n : Nat) (c : Nat) : (s.recordFault e n).readByte c = s.readByte c := rfl
@[simp] theorem State.readByte_push (w : Word) (h : s.sp.val < 16) (c : Nat) : (s.push w h).readByte c = s.readByte c := rfl
@[simp] theorem State.readByte_pop (c : Nat) : s.pop.readByte c = s.readByte c := rfl
@[simp] theorem State.readByte_countDraw (c : Nat) : s.countDraw.readByte c = s.readByte c := rfl
@[simp] theorem State.readByte_emit (r : HostReply) (c : Nat) : (s.emit r).readByte c = s.readByte c := rfl
@[simp] theorem State.readByte_setSchedule (cs : List HostCall) (c : Nat) : (s.setSchedule cs).readByte c = s.readByte c := rfl

@[simp] theorem State.dflt_setV (x : Nibble) (b : Byte) : (s.setV x b).dflt = s.dflt := rfl
@[simp] theorem State.dflt_setI (w : Word) : (s.setI w).dflt = s.dflt := rfl
@[simp] theorem State.dflt_setPc (w : Word) : (s.setPc w).dflt = s.dflt := rfl
@[simp] theorem State.dflt_advance (k : Word) : (s.advance k).dflt = s.dflt := rfl
@[simp] theorem State.dflt_setDt (b : Byte) : (s.setDt b).dflt = s.dflt := rfl
@[simp] theorem State.dflt_setSt (b : Byte) : (s.setSt b).dflt = s.dflt := rfl
@[simp] theorem State.dflt_setKeyFlag (k : Nibble) (p : Bool) : (s.setKeyFlag k p).dflt = s.dflt := rfl
@[simp] theorem State.dflt_clearKeys : s.clearKeys.dflt = s.dflt := rfl
@[simp] theorem State.dflt_suspend (x : Nibble) : (s.suspend x).dflt = s.dflt := rfl
@[simp] theorem State.dflt_resume : s.resume.dflt = s.dflt := rfl
@[simp] theorem State.dflt_setDraw (b : Bool) : (s.setDraw b).dflt = s.dflt := rfl
@[simp] theorem State.dflt_setDisp (d : Display) : (s.setDisp d).dflt = s.dflt := rfl
@[simp] theorem State.dflt_recordFault (c : FaultCause) (n : Nat) : (s.recordFault c n).dflt = s.dflt := rfl
@[simp] theorem State.dflt_push (w : Word) (h : s.sp.val < 16) : (s.push w h).dflt = s.dflt := rfl
@[simp] theorem State.dflt_pop : s.pop.dflt = s.dflt := rfl
@[simp] theorem State.dflt_writeByte (a : Nat) (b : Byte) : (s.writeByte a b).dflt = s.dflt := rfl
@[simp] theorem State.dflt_countDraw : s.countDraw.dflt = s.dflt := rfl
@[simp] theorem State.dflt_emit (r : HostReply) : (s.emit r).dflt = s.dflt := rfl
@[simp] theorem State.dflt_setSchedule (cs : List HostCall) : (s.setSchedule cs).dflt = s.dflt := rfl

@[simp] theorem State.top_setV (x : Nibble) (b : Byte) : (s.setV x b).top = s.top := rfl
@[simp] theorem State.top_setI (w : Word) : (s.setI w).top = s.top := rfl
@[simp] theorem State.top_setPc (w : Word) : (s.setPc w).top = s.top := rfl
@[simp] theorem State.top_advance (k : Word) : (s.advance k).top = s.top := rfl
@[simp] theorem State.top_setDt (b : Byte) : (s.setDt b).top = s.top := rfl
@[simp] theorem State.top_setSt (b : Byte) : (s.setSt b).top = s.top := rfl
@[simp] theorem State.top_setKeyFlag (k : Nibble) (p : Bool) : (s.setKeyFlag k p).top = s.top := rfl
@[simp] theorem State.top_clearKeys : s.clearKeys.top = s.top := rfl
@[simp] theorem State.top_suspend (x : Nibble) : (s.suspend x).top = s.top := rfl
@[simp] theorem State.top_resume : s.resume.top = s.top := rfl
@[simp] theorem State.top_setDraw (b : Bool) : (s.setDraw b).top = s.top := rfl
@[simp] theorem State.top_setDisp (d : Display) : (s.setDisp d).top = s.top := rfl
@[simp] theorem State.top_recordFault (c : FaultCause) (n : Nat) : (s.recordFault c n).top = s.top := rfl
@[simp] theorem State.top_writeByte (a : Nat) (b : Byte) : (s.writeByte a b).top = s.top := rfl
@[simp] theorem State.top_countDraw : s.countDraw.top = s.top := rfl
@[simp] theorem State.top_emit (r : HostReply) : (s.emit r).top = s.top := rfl
@[simp] theorem State.top_setSchedule (cs : List HostCall) : (s.setSchedule cs).top = s.top := rfl

end Sys2Proof.Machine
end

