-- ==== Sys2Proof/Laws/Ops.lean ====
section
/-! SUPPORT. What each shared operation does, once: later proofs cite these and unfold none of the operations. -/

namespace Sys2Proof.Machine

variable (s : State)

theorem nibble_toNat_inj {x y : Nibble} : x.toNat = y.toNat ↔ x = y := ⟨BitVec.eq_of_toNat_eq, congrArg _⟩

@[simp] theorem State.getV_setV (x y : Nibble) (b : Byte) : (s.setV x b).getV y = if y = x then b else s.getV y := by
  unfold State.getV State.setV
  simp only [Vector.getElem_set]
  by_cases h : y = x
  · subst h; simp
  · simp [h, nibble_toNat_inj, Ne.symm h]

@[simp] theorem State.getKey_setKeyFlag (k j : Nibble) (p : Bool) :
    (s.setKeyFlag k p).getKey j = if j = k then p else s.getKey j := by
  unfold State.getKey State.setKeyFlag
  simp only [Vector.getElem_set]
  by_cases h : j = k
  · subst h; simp
  · simp [h, nibble_toNat_inj, Ne.symm h]

@[simp] theorem State.getKey_clearKeys (k : Nibble) : s.clearKeys.getKey k = false := by simp [State.getKey]

@[simp] theorem State.readByte_writeByte (a c : Nat) (b : Byte) :
    (s.writeByte a b).readByte c = if c = a then b else s.readByte c := Memory.read_write s.mem a c b

/-- One byte written at an address below 4096 keeps memory canonical. -/
theorem State.wf_writeByte {s : State} {a : Nat} (b : Byte) (h : Memory.wf s.dflt s.mem = true) (ha : a < memSize) :
    Memory.wf (s.writeByte a b).dflt (s.writeByte a b).mem = true := Memory.wf_write b h ha

/-- The result, then the flag: VF holds the flag, whichever register the result went to (spec/41_alu.md R139). -/
@[simp] theorem State.getV_setResultAndFlag (x y : Nibble) (b : Byte) (c : Bool) :
    (s.setResultAndFlag x b c).getV y = if y = vf then flagByte c else if y = x then b else s.getV y := by
  simp [State.setResultAndFlag]

/-- A list of bytes written changes memory only. -/
theorem State.writeBytes_eq (as : List Nat) (bs : List Byte) :
    s.writeBytes as bs = { s with mem := (s.writeBytes as bs).mem } := by
  induction as generalizing s bs with
  | nil => rfl
  | cons a as ih =>
    cases bs with
    | nil => rfl
    | cons b bs => unfold State.writeBytes; rw [ih]; rfl

/-- An address outside the list reads as before. -/
theorem State.readByte_writeBytes_of_notMem {as : List Nat} {bs : List Byte} {c : Nat} (h : c ∉ as) :
    (s.writeBytes as bs).readByte c = s.readByte c := by
  induction as generalizing s bs with
  | nil => rfl
  | cons a as ih =>
    cases bs with
    | nil => rfl
    | cons b bs =>
      simp only [List.mem_cons, not_or] at h
      unfold State.writeBytes
      rw [ih _ h.2, State.readByte_writeByte, if_neg h.1]

/-- The k-th address reads as the k-th byte, where the addresses are distinct. -/
theorem State.readByte_writeBytes {as : List Nat} {bs : List Byte} (hn : as.Nodup) (hl : as.length = bs.length) {k : Nat}
    (hk : k < as.length) : (s.writeBytes as bs).readByte as[k] = bs[k]'(hl ▸ hk) := by
  induction as generalizing s bs k with
  | nil => simp at hk
  | cons a as ih =>
    cases bs with
    | nil => simp at hl
    | cons b bs =>
      rw [List.nodup_cons] at hn
      unfold State.writeBytes
      cases k with
      | zero => simp [State.readByte_writeBytes_of_notMem _ hn.1]
      | succ k => exact ih _ hn.2 (by simpa using hl) (by simpa using hk)

/-- Bytes written at addresses below 4096 keep memory canonical. -/
theorem State.wf_writeBytes {s : State} {as : List Nat} (bs : List Byte) (h : Memory.wf s.dflt s.mem = true)
    (ha : ∀ a ∈ as, a < memSize) : Memory.wf (s.writeBytes as bs).dflt (s.writeBytes as bs).mem = true := by
  induction as generalizing s bs with
  | nil => exact h
  | cons a as ih =>
    cases bs with
    | nil => exact h
    | cons b bs =>
      unfold State.writeBytes
      exact ih bs (State.wf_writeByte b h (ha a (by simp))) fun c hc => ha c (by simp [hc])

/-- Registers loaded from a list change the register file only. -/
theorem State.setRegsFrom_eq (k : Nat) (bs : List Byte) :
    State.setRegsFrom k bs s = { s with v := (State.setRegsFrom k bs s).v } := by
  induction bs generalizing k s with
  | nil => rfl
  | cons b bs ih => unfold State.setRegsFrom; rw [ih]; rfl

/-- Register `r` after a load of the registers from `k` up. -/
theorem State.getV_setRegsFrom {k : Nat} {bs : List Byte} (hk : k + bs.length ≤ 16) (r : Nibble) :
    (State.setRegsFrom k bs s).getV r =
      if h : k ≤ r.toNat ∧ r.toNat < k + bs.length then bs[r.toNat - k]'(by omega) else s.getV r := by
  induction bs generalizing k s with
  | nil => rw [dif_neg (by simp)]; rfl
  | cons b bs ih =>
    simp only [List.length_cons] at hk ⊢
    unfold State.setRegsFrom
    rw [ih _ (by omega), State.getV_setV]
    have hkn : r = BitVec.ofNat 4 k ↔ r.toNat = k := by
      rw [← nibble_toNat_inj, BitVec.toNat_ofNat, Nat.mod_eq_of_lt (by omega)]
    by_cases h1 : k + 1 ≤ r.toNat ∧ r.toNat < k + 1 + bs.length
    · rw [dif_pos h1, dif_pos (by omega)]
      obtain ⟨j, hj⟩ : ∃ j, r.toNat - k = j + 1 := ⟨r.toNat - k - 1, by omega⟩
      simp only [hj, List.getElem_cons_succ, show r.toNat - (k + 1) = j by omega]
    · rw [dif_neg h1]
      by_cases h2 : r.toNat = k
      · rw [if_pos (hkn.mpr h2), dif_pos (by omega)]
        simp [h2]
      · rw [if_neg (fun h => h2 (hkn.mp h)), dif_neg (by omega)]

@[simp] theorem State.length_regsUpTo (x : Nibble) : (s.regsUpTo x).length = x.toNat + 1 := by simp [State.regsUpTo]

@[simp] theorem State.getElem_regsUpTo (x : Nibble) (k : Nat) (h : k < (s.regsUpTo x).length) :
    (s.regsUpTo x)[k] = s.getV (BitVec.ofNat 4 k) := by simp [State.regsUpTo]

/-- The two outcomes of a checked access: the operation on the addresses modulo 4096, or the fault of R64. -/
theorem withRange_cases (kind : AccessKind) (base n : Nat) (go : List Nat → Result) :
    ((∀ k < n, resolve s.cfg.oobPolicy (base + k) ≠ none) ∧
        withRange kind base n s go = go ((List.range n).map fun k => (base + k) % memSize)) ∨
      ∃ j < n, resolve s.cfg.oobPolicy (base + j) = none ∧ (∀ k < j, resolve s.cfg.oobPolicy (base + k) ≠ none) ∧
        withRange kind base n s go = .next (s.recordFault (.outOfRange kind) (base + j)) := by
  unfold withRange
  rcases resolveRange_cases s.cfg.oobPolicy n base with ⟨h, e⟩ | ⟨j, hj, hb, hl, e⟩
  · exact .inl ⟨h, by rw [e]⟩
  · exact .inr ⟨j, hj, hb, hl, by rw [e]; rfl⟩

/-- The addresses of a range modulo 4096 are distinct, where there are at most 4096 (spec/20_memory.md R75). -/
theorem nodup_range_mod (base : Nat) {n : Nat} (hn : n ≤ memSize) :
    ((List.range n).map fun k => (base + k) % memSize).Nodup := by
  rw [List.nodup_map_iff_inj_on List.nodup_range]
  intro a ha b hb h
  simp only [List.mem_range, memSize] at *
  omega

theorem lt_of_mem_range_mod {base n a : Nat} (h : a ∈ (List.range n).map fun k => (base + k) % memSize) : a < memSize := by
  obtain ⟨k, -, rfl⟩ := List.mem_map.mp h
  exact Nat.mod_lt _ (by decide)

/-- The two outcomes of a key skip's check (spec/44_keys_timers.md R210). -/
theorem withKey_cases (k : Byte) (go : Bool → Result) :
    (k.toNat ≤ 15 ∧ withKey k s go = go (s.getKey (k.setWidth 4))) ∨
      (15 < k.toNat ∧ withKey k s go = .next (s.recordFault .keyIndexOutOfRange k.toNat)) := by
  unfold withKey raiseFault
  by_cases h : k.toNat > 15
  · exact .inr ⟨h, if_pos h⟩
  · exact .inl ⟨Nat.not_lt.mp h, if_neg h⟩

/-- The two outcomes of a skip. -/
theorem State.skipIf_eq (c : Bool) : s.skipIf c = s.advance (if c then 4 else 2) := by
  unfold State.skipIf; cases c <;> rfl

/-- The three outcomes of a fetch (spec/20_memory.md R65). -/
theorem State.fetchWord_cases :
    (∃ a0 a1, resolve s.cfg.oobPolicy s.pc.toNat = some a0 ∧ resolve s.cfg.oobPolicy (s.pc.toNat + 1) = some a1 ∧
        s.fetchWord = .ok (wordOfBytes (s.readByte a0) (s.readByte a1))) ∨
      (resolve s.cfg.oobPolicy s.pc.toNat = none ∧ s.fetchWord = .error s.pc.toNat) ∨
      (∃ a0, resolve s.cfg.oobPolicy s.pc.toNat = some a0 ∧ resolve s.cfg.oobPolicy (s.pc.toNat + 1) = none ∧
        s.fetchWord = .error (s.pc.toNat + 1)) := by
  unfold State.fetchWord
  cases h0 : resolve s.cfg.oobPolicy s.pc.toNat with
  | none => exact .inr (.inl ⟨rfl, rfl⟩)
  | some a0 =>
    cases h1 : resolve s.cfg.oobPolicy (s.pc.toNat + 1) with
    | none => exact .inr (.inr ⟨a0, rfl, rfl, rfl⟩)
    | some a1 => exact .inl ⟨a0, a1, rfl, rfl, rfl⟩

/-- The four ways an execute step goes (spec/30_encoding.md R90). -/
theorem execute_cases :
    ((s.fault.isSome = true ∨ s.susp = true) ∧ execute s = .next s) ∨
      (s.fault = none ∧ s.susp = false ∧
        ((∃ a, s.fetchWord = .error a ∧ execute s = .next (s.recordFault (.outOfRange .fetch) a)) ∨
          ∃ w, s.fetchWord = .ok w ∧ execute s = exec (decode w) s)) := by
  unfold execute
  cases hf : s.fault with
  | some r => exact .inl ⟨.inl rfl, rfl⟩
  | none =>
    cases hs : s.susp with
    | true => exact .inl ⟨.inr rfl, rfl⟩
    | false =>
      cases hw : s.fetchWord with
      | error a => exact .inr ⟨rfl, rfl, .inl ⟨a, rfl, rfl⟩⟩
      | ok w => exact .inr ⟨rfl, rfl, .inr ⟨w, rfl, rfl⟩⟩

/-- The two ways a step goes (spec/00_scope.md R13). -/
theorem step_cases :
    (s.schedule = [] ∧ step s = execute s) ∨
      ∃ c rest, s.schedule = c :: rest ∧ step s = hostCall c (s.setSchedule rest) := by
  unfold step
  cases h : s.schedule with
  | nil => exact .inl ⟨rfl, rfl⟩
  | cons c rest => exact .inr ⟨c, rest, rfl, rfl⟩

end Sys2Proof.Machine
end

