-- ==== Sys2Proof/Laws/Exec.lean ====
section
/-! SUPPORT. What `exec` and the checked memory accesses can do, in the terms of Sys2Proof/Safety.lean: an invariant is
one case analysis by `exec_elim`, and no proof unfolds a meaning's address check. -/

namespace Sys2Proof.Machine

variable (s : State)

/-- The addresses of the `n` bytes from I up, modulo 4096. -/
def State.addrsAtI (n : Nat) : List Nat := (List.range n).map fun k => (s.i.toNat + k) % memSize

/-- The rows a sprite of `n` rows reads. -/
def State.rowsAtI (n : Nat) : List Byte := (s.addrsAtI n).map s.readByte

@[simp] theorem State.length_addrsAtI (n : Nat) : (s.addrsAtI n).length = n := by simp [State.addrsAtI]

@[simp] theorem State.length_rowsAtI (n : Nat) : (s.rowsAtI n).length = n := by simp [State.rowsAtI]

@[simp] theorem State.getElem_addrsAtI (n k : Nat) (h : k < (s.addrsAtI n).length) :
    (s.addrsAtI n)[k] = (s.i.toNat + k) % memSize := by simp [State.addrsAtI]

@[simp] theorem State.getElem_rowsAtI (n k : Nat) (h : k < (s.rowsAtI n).length) :
    (s.rowsAtI n)[k] = s.spriteRow k := by simp [State.rowsAtI, State.spriteRow]

/-- A checked access at I whose addresses are all accessible runs on them. -/
theorem withRange_of_accessible {s : State} {n : Nat} (h : Accessible s s.i.toNat n) (kind : AccessKind)
    (go : List Nat → Result) : withRange kind s.i.toNat n s go = go (s.addrsAtI n) := by
  rcases withRange_cases s kind s.i.toNat n go with ⟨-, e⟩ | ⟨j, hj, hb, -, -⟩
  · exact e
  · exact absurd hb (h j hj)

/-- A checked access at I with a lowest out-of-range address faults there. -/
theorem withRange_of_lowest {s : State} {n a : Nat} (h : LowestOutOfRange s n a) (kind : AccessKind)
    (go : List Nat → Result) : withRange kind s.i.toNat n s go = .next (s.recordFault (.outOfRange kind) a) := by
  obtain ⟨hp, ha, ⟨k, hk, rfl⟩, hmin⟩ := h
  rcases withRange_cases s kind s.i.toNat n go with ⟨h, -⟩ | ⟨j, hj, hb, hl, e⟩
  · exact absurd (resolve_eq_none.mpr ⟨ha, hp⟩) (h k hk)
  · have hle := hmin j hj (resolve_eq_none.mp hb).1
    have hge : ¬ k < j := fun hkj => hl k hkj (resolve_eq_none.mpr ⟨ha, hp⟩)
    rw [e, show j = k by omega]

/-- The two outcomes of a checked access at I: the fault at the lowest out-of-range address, or the operation. -/
theorem withRange_next {s t : State} {n : Nat} {kind : AccessKind} {go : List Nat → Result}
    (h : withRange kind s.i.toNat n s go = .next t) :
    (∃ a, LowestOutOfRange s n a ∧ t = s.recordFault (.outOfRange kind) a) ∨
      (Accessible s s.i.toNat n ∧ go (s.addrsAtI n) = .next t) := by
  rcases withRange_cases s kind s.i.toNat n go with ⟨hacc, e⟩ | ⟨j, hj, hb, hl, e⟩
  · exact .inr ⟨hacc, e ▸ h⟩
  · rw [e] at h
    cases h
    obtain ⟨h1, h2⟩ := resolve_eq_none.mp hb
    refine .inl ⟨_, ⟨h2, h1, ⟨j, hj, rfl⟩, fun k _ h4 => ?_⟩, rfl⟩
    by_contra hlt
    exact hl k (by omega) (resolve_eq_none.mpr ⟨h4, h2⟩)

/-- The k-th address at I reads as the k-th byte written there (at most 4096 of them). -/
theorem State.readByte_writeBytes_addrsAtI {n k : Nat} {bs : List Byte} (hn : n ≤ memSize) (hl : bs.length = n)
    (hk : k < n) : (s.writeBytes (s.addrsAtI n) bs).readByte ((s.i.toNat + k) % memSize) = bs[k]'(hl ▸ hk) := by
  have h := State.readByte_writeBytes s (as := s.addrsAtI n) (bs := bs) (nodup_range_mod _ hn) (by simp [hl]) (k := k)
    (by simpa using hk)
  rwa [State.getElem_addrsAtI] at h

/-- An address that none of the `n` at I resolves to reads as before, where all are accessible. -/
theorem State.readByte_writeBytes_of_unresolved {s : State} {n a : Nat} {bs : List Byte}
    (h : Accessible s s.i.toNat n) (ha : ∀ k < n, resolve s.cfg.oobPolicy (s.i.toNat + k) ≠ some a) :
    (s.writeBytes (s.addrsAtI n) bs).readByte a = s.readByte a := by
  apply State.readByte_writeBytes_of_notMem
  intro hm
  obtain ⟨k, hk, rfl⟩ := List.mem_map.mp hm
  have hk := List.mem_range.mp hk
  obtain ⟨b, hb⟩ := Option.ne_none_iff_exists'.mp (h k hk)
  exact ha k hk (by rw [hb, (resolve_eq_some.mp hb).2])

/-- The pixels a sprite flips are the ones it covers. -/
theorem mem_spritePixels_rowsAtI {ox oy n : Nat} {p : Pixel} :
    p ∈ spritePixels ox oy 0 (s.rowsAtI n) ↔ Covers ox oy n s.spriteRow p := by
  rw [mem_spritePixels]
  constructor
  · rintro ⟨k, hk, c, hc, hb, hx, hy⟩
    rw [State.getElem_rowsAtI] at hb
    exact ⟨k, by simpa using hk, c, hc, hb, hx, by simpa using hy⟩
  · rintro ⟨k, hk, c, hc, hb, hx, hy⟩
    exact ⟨k, by simpa using hk, c, hc, by rwa [State.getElem_rowsAtI], hx, by simpa using hy⟩

/-- Everything `exec` can do: a property of (instruction, state before, state after) holds of every next state when it
holds of the faults of the table, of each effect guarded by a check, and of every next state of the instructions that
check nothing. -/
theorem exec_elim {P : Instr → State → Prop}
    (fault : ∀ i c info, Raises i s c info → P i (s.recordFault c info))
    (call : ∀ nnn (h : s.sp.val < 16), P (.call nnn) ((s.push s.pc h).setPc (zext16 nnn)))
    (ret : s.sp.val ≠ 0 → P .ret (s.pop.setPc (s.top + 2)))
    (drw : ∀ x y n, Accessible s s.i.toNat n.toNat →
      P (.drw x y n) ((((s.setDisp (drawSprite (s.getV x).toNat (s.getV y).toNat (s.rowsAtI n.toNat) s.disp).1).setV vf
        (flagByte (drawSprite (s.getV x).toNat (s.getV y).toNat (s.rowsAtI n.toNat) s.disp).2)).setDraw true).advance 2))
    (ldB : ∀ x, Accessible s s.i.toNat 3 →
      P (.ldB x) ((s.writeBytes (s.addrsAtI 3) (bcdDigits (s.getV x))).advance 2))
    (dumpRegs : ∀ x, Accessible s s.i.toNat (x.toNat + 1) →
      P (.dumpRegs x) ((s.writeBytes (s.addrsAtI (x.toNat + 1)) (s.regsUpTo x)).advance 2))
    (loadRegs : ∀ x, Accessible s s.i.toNat (x.toNat + 1) →
      P (.loadRegs x) ((State.setRegsFrom 0 (s.rowsAtI (x.toNat + 1)) s).advance 2))
    (skp : ∀ x, (s.getV x).toNat ≤ 15 → P (.skp x) (s.skipIf (s.getKey ((s.getV x).setWidth 4))))
    (sknp : ∀ x, (s.getV x).toNat ≤ 15 → P (.sknp x) (s.skipIf (!s.getKey ((s.getV x).setWidth 4))))
    (plain : ∀ i t, exec i s = .next t → (∀ c info, ¬ Raises i s c info) → (∀ nnn, i ≠ .call nnn) → i ≠ .ret →
      (∀ x y n, i ≠ .drw x y n) → (∀ x, i ≠ .ldB x ∧ i ≠ .dumpRegs x ∧ i ≠ .loadRegs x ∧ i ≠ .skp x ∧ i ≠ .sknp x) →
      P i t) :
    ∀ i t, exec i s = .next t → P i t := by
  intro i t ht
  cases i
  case call nnn =>
    simp only [exec, execCall] at ht
    split at ht <;> cases ht
    · exact call _ _
    · exact fault _ _ _ ⟨rfl, by have := s.sp.isLt; omega, rfl⟩
  case ret =>
    simp only [exec, execRet] at ht
    split at ht <;> cases ht
    · exact fault _ _ _ ⟨rfl, by assumption, rfl⟩
    · exact ret (by assumption)
  case drw x y n =>
    obtain ⟨a, h, rfl⟩ | ⟨hacc, h⟩ := withRange_next ht
    · exact fault _ _ _ ⟨rfl, h⟩
    · cases h; exact drw x y n hacc
  case ldB x =>
    obtain ⟨a, h, rfl⟩ | ⟨hacc, h⟩ := withRange_next ht
    · exact fault _ _ _ ⟨rfl, h⟩
    · cases h; exact ldB x hacc
  case dumpRegs x =>
    obtain ⟨a, h, rfl⟩ | ⟨hacc, h⟩ := withRange_next ht
    · exact fault _ _ _ ⟨rfl, h⟩
    · cases h; exact dumpRegs x hacc
  case loadRegs x =>
    obtain ⟨a, h, rfl⟩ | ⟨hacc, h⟩ := withRange_next ht
    · exact fault _ _ _ ⟨rfl, h⟩
    · cases h; exact loadRegs x hacc
  case skp x =>
    simp only [exec, execSkp] at ht
    rcases withKey_cases s (s.getV x) (fun down => .next (s.skipIf down)) with ⟨hk, e⟩ | ⟨hk, e⟩ <;>
      rw [e] at ht <;> cases ht
    · exact skp x hk
    · exact fault _ _ _ ⟨rfl, hk, rfl⟩
  case sknp x =>
    simp only [exec, execSknp] at ht
    rcases withKey_cases s (s.getV x) (fun down => .next (s.skipIf (!down))) with ⟨hk, e⟩ | ⟨hk, e⟩ <;>
      rw [e] at ht <;> cases ht
    · exact sknp x hk
    · exact fault _ _ _ ⟨rfl, hk, rfl⟩
  all_goals exact plain _ _ ht (by simp [Raises]) (by simp) (by simp) (by simp) (by simp)

/-- One more step of a run, of any machine. -/
theorem run_succ_of {M : Host.Core} {s t : M.State} (n : Nat) (h : M.step s = .next t) : M.run (n + 1) s = M.run n t := by
  rw [Host.Core.run.eq_def]
  simp only [h]

/-- One more step of a run. -/
theorem run_succ {s t : State} (n : Nat) (h : step s = .next t) :
    Host.Core.run core (n + 1) s = Host.Core.run core n t := run_succ_of (M := core) n h

/-- A run of no step. -/
theorem run_zero (s : State) : Host.Core.run core 0 s = .next s := rfl

end Sys2Proof.Machine
end

