-- ==== Sys2Proof/Laws/PerInstr.lean ====
section
/-! SUPPORT. Per instruction: the word the encoder builds is one of the instruction's own row of spec/opcode_table.json. -/

namespace Sys2Proof.Laws.EncodesToRow

open Machine

/-- The instruction's row of the table; the decode failure has none. -/
def row : Instr → Option OpcodeRow
  | .cls => some ⟨0x00E0, 0xFFFF⟩
  | .ret => some ⟨0x00EE, 0xFFFF⟩
  | .jp _ => some ⟨0x1000, 0xF000⟩
  | .call _ => some ⟨0x2000, 0xF000⟩
  | .seImm _ _ => some ⟨0x3000, 0xF000⟩
  | .sneImm _ _ => some ⟨0x4000, 0xF000⟩
  | .seReg _ _ _ => some ⟨0x5000, 0xF000⟩
  | .ldImm _ _ => some ⟨0x6000, 0xF000⟩
  | .addImm _ _ => some ⟨0x7000, 0xF000⟩
  | .ldReg _ _ => some ⟨0x8000, 0xF00F⟩
  | .orReg _ _ => some ⟨0x8001, 0xF00F⟩
  | .andReg _ _ => some ⟨0x8002, 0xF00F⟩
  | .xorReg _ _ => some ⟨0x8003, 0xF00F⟩
  | .addReg _ _ => some ⟨0x8004, 0xF00F⟩
  | .subReg _ _ => some ⟨0x8005, 0xF00F⟩
  | .shr _ _ => some ⟨0x8006, 0xF00F⟩
  | .subnReg _ _ => some ⟨0x8007, 0xF00F⟩
  | .shl _ _ => some ⟨0x800E, 0xF00F⟩
  | .sneReg _ _ _ => some ⟨0x9000, 0xF000⟩
  | .ldI _ => some ⟨0xA000, 0xF000⟩
  | .jpV0 _ => some ⟨0xB000, 0xF000⟩
  | .rnd _ _ => some ⟨0xC000, 0xF000⟩
  | .drw _ _ _ => some ⟨0xD000, 0xF000⟩
  | .skp _ => some ⟨0xE09E, 0xF0FF⟩
  | .sknp _ => some ⟨0xE0A1, 0xF0FF⟩
  | .ldVxDt _ => some ⟨0xF007, 0xF0FF⟩
  | .ldVxK _ => some ⟨0xF00A, 0xF0FF⟩
  | .ldDtVx _ => some ⟨0xF015, 0xF0FF⟩
  | .ldStVx _ => some ⟨0xF018, 0xF0FF⟩
  | .addI _ => some ⟨0xF01E, 0xF0FF⟩
  | .ldF _ => some ⟨0xF029, 0xF0FF⟩
  | .ldB _ => some ⟨0xF033, 0xF0FF⟩
  | .dumpRegs _ => some ⟨0xF055, 0xF0FF⟩
  | .loadRegs _ => some ⟨0xF065, 0xF0FF⟩
  | .unknown _ => none

/-- The encoded word matches the instruction's row, and for the decode failure no row at all. -/
def Statement (i : Instr) : Prop :=
  i.wf = true → match row i with
    | some r => rowMatches (encode i) r = true
    | none => isUnknownWord (encode i) = true

theorem cls : Statement .cls := fun _ => rfl

theorem ret : Statement .ret := fun _ => rfl

theorem jp (nnn : Addr12) : Statement (.jp nnn) := fun _ => (rowMatches_op _ 0x1).mpr (by simp [encode])

theorem call (nnn : Addr12) : Statement (.call nnn) := fun _ => (rowMatches_op _ 0x2).mpr (by simp [encode])

theorem seImm (x : Nibble) (nn : Byte) : Statement (.seImm x nn) := fun _ => (rowMatches_op _ 0x3).mpr (by simp [encode])

theorem sneImm (x : Nibble) (nn : Byte) : Statement (.sneImm x nn) := fun _ => (rowMatches_op _ 0x4).mpr (by simp [encode])

theorem seReg (x : Nibble) (y : Nibble) (n : Nibble) : Statement (.seReg x y n) := fun _ => (rowMatches_op _ 0x5).mpr (by simp [encode])

theorem ldImm (x : Nibble) (nn : Byte) : Statement (.ldImm x nn) := fun _ => (rowMatches_op _ 0x6).mpr (by simp [encode])

theorem addImm (x : Nibble) (nn : Byte) : Statement (.addImm x nn) := fun _ => (rowMatches_op _ 0x7).mpr (by simp [encode])

theorem ldReg (x : Nibble) (y : Nibble) : Statement (.ldReg x y) := fun _ => (rowMatches_op_n _ 0x8 0x0).mpr (by simp [encode])

theorem orReg (x : Nibble) (y : Nibble) : Statement (.orReg x y) := fun _ => (rowMatches_op_n _ 0x8 0x1).mpr (by simp [encode])

theorem andReg (x : Nibble) (y : Nibble) : Statement (.andReg x y) := fun _ => (rowMatches_op_n _ 0x8 0x2).mpr (by simp [encode])

theorem xorReg (x : Nibble) (y : Nibble) : Statement (.xorReg x y) := fun _ => (rowMatches_op_n _ 0x8 0x3).mpr (by simp [encode])

theorem addReg (x : Nibble) (y : Nibble) : Statement (.addReg x y) := fun _ => (rowMatches_op_n _ 0x8 0x4).mpr (by simp [encode])

theorem subReg (x : Nibble) (y : Nibble) : Statement (.subReg x y) := fun _ => (rowMatches_op_n _ 0x8 0x5).mpr (by simp [encode])

theorem shr (x : Nibble) (y : Nibble) : Statement (.shr x y) := fun _ => (rowMatches_op_n _ 0x8 0x6).mpr (by simp [encode])

theorem subnReg (x : Nibble) (y : Nibble) : Statement (.subnReg x y) := fun _ => (rowMatches_op_n _ 0x8 0x7).mpr (by simp [encode])

theorem shl (x : Nibble) (y : Nibble) : Statement (.shl x y) := fun _ => (rowMatches_op_n _ 0x8 0xE).mpr (by simp [encode])

theorem sneReg (x : Nibble) (y : Nibble) (n : Nibble) : Statement (.sneReg x y n) := fun _ => (rowMatches_op _ 0x9).mpr (by simp [encode])

theorem ldI (nnn : Addr12) : Statement (.ldI nnn) := fun _ => (rowMatches_op _ 0xA).mpr (by simp [encode])

theorem jpV0 (nnn : Addr12) : Statement (.jpV0 nnn) := fun _ => (rowMatches_op _ 0xB).mpr (by simp [encode])

theorem rnd (x : Nibble) (nn : Byte) : Statement (.rnd x nn) := fun _ => (rowMatches_op _ 0xC).mpr (by simp [encode])

theorem drw (x : Nibble) (y : Nibble) (n : Nibble) : Statement (.drw x y n) := fun _ => (rowMatches_op _ 0xD).mpr (by simp [encode])

theorem skp (x : Nibble) : Statement (.skp x) := fun _ => (rowMatches_op_nn _ 0xE 0x9E).mpr (by simp [encode])

theorem sknp (x : Nibble) : Statement (.sknp x) := fun _ => (rowMatches_op_nn _ 0xE 0xA1).mpr (by simp [encode])

theorem ldVxDt (x : Nibble) : Statement (.ldVxDt x) := fun _ => (rowMatches_op_nn _ 0xF 0x07).mpr (by simp [encode])

theorem ldVxK (x : Nibble) : Statement (.ldVxK x) := fun _ => (rowMatches_op_nn _ 0xF 0x0A).mpr (by simp [encode])

theorem ldDtVx (x : Nibble) : Statement (.ldDtVx x) := fun _ => (rowMatches_op_nn _ 0xF 0x15).mpr (by simp [encode])

theorem ldStVx (x : Nibble) : Statement (.ldStVx x) := fun _ => (rowMatches_op_nn _ 0xF 0x18).mpr (by simp [encode])

theorem addI (x : Nibble) : Statement (.addI x) := fun _ => (rowMatches_op_nn _ 0xF 0x1E).mpr (by simp [encode])

theorem ldF (x : Nibble) : Statement (.ldF x) := fun _ => (rowMatches_op_nn _ 0xF 0x29).mpr (by simp [encode])

theorem ldB (x : Nibble) : Statement (.ldB x) := fun _ => (rowMatches_op_nn _ 0xF 0x33).mpr (by simp [encode])

theorem dumpRegs (x : Nibble) : Statement (.dumpRegs x) := fun _ => (rowMatches_op_nn _ 0xF 0x55).mpr (by simp [encode])

theorem loadRegs (x : Nibble) : Statement (.loadRegs x) := fun _ => (rowMatches_op_nn _ 0xF 0x65).mpr (by simp [encode])

theorem unknown (w : Word) : Statement (.unknown w) := id

end Sys2Proof.Laws.EncodesToRow
end

