-- ==== Sys2Proof/Tests/Slice0.lean ====
section
/-! SUPPORT. Tests: the well-formedness check, every constructor's decoding of a word written out from
spec/30_encoding.md R91 and R93, one step of each instruction against spec/95_test_vectors.md (the vector's name stands at
the test), and for every obligation with hypotheses a state and operands that meet them (`witness_<Name>`). -/

namespace Sys2Proof.Tests

open Sys2Proof.Machine

/-! ## Helpers -/

/-- What a reader `f` sees after the one step that fetches and runs the word `w`. -/
def after {α : Type} (s : State) (w : Nat) (f : State → α) : Option α :=
  match step (s.withFetchWord 16 w) with
  | .next t => some (f t)
  | .fault _ => none
  | .refused _ => none

/-- What `f` sees after `n` steps. -/
def afterRun {α : Type} (n : Nat) (s : State) (f : State → α) : Option α :=
  match Host.Core.run core n s with
  | .next t => some (f t)
  | .fault _ => none
  | .refused _ => none

/-- A machine under `OOB_POLICY = wrap`. -/
def wrapped (s : State) : State := { s with cfg := { s.cfg with oobPolicy := .wrap } }

/-- A machine whose stack holds `n` entries. -/
def withSp (n : Fin 17) (s : State) : State := { s with sp := n }

/-- A machine whose host has these calls pending. -/
def calling (cs : List HostCall) (s : State) : State := { s with schedule := cs }

/-- A faulted machine: the stack overflow of FLT1. -/
def faulted (s : State) : State := { withSp 16 s with fault := some ⟨.stackOverflow, s.pc, 16⟩ }

/-- A record as the vectors write it: (code, pc, info). -/
def faultOf (s : State) : Option (Nat × Word × Nat) := s.fault.map fun r => (r.cause.code, r.pc, r.info)

/-- The reset machine. -/
abbrev rs : State := State.reset

/-! ## Well-formedness: the one check -/

/-- `unknown` may not hold a word of the table: one word of each class with a row. -/
theorem test_wf_refuses_table_words :
    (Instr.unknown 0x00E0).wf = false ∧ (Instr.unknown 0x00EE).wf = false ∧ (Instr.unknown 0x1234).wf = false ∧
    (Instr.unknown 0x5AB3).wf = false ∧ (Instr.unknown 0x820E).wf = false ∧ (Instr.unknown 0xE1A1).wf = false ∧
    (Instr.unknown 0xFF65).wf = false := by decide

theorem test_wf_accepts :
    (Instr.unknown 0x0000).wf = true ∧ (Instr.unknown 0x8008).wf = true ∧ (Instr.unknown 0xE09F).wf = true ∧
    (Instr.unknown 0xF075).wf = true ∧ (Instr.drw 0xF 0xF 0).wf = true := by decide

/-! ## Decoding: words bit by bit -/

/-- Class 0x0 (R95), DEC1 to DEC4. -/
theorem test_decode_fixed :
    decode 0b0000000011100000 = .cls ∧ decode 0b0000000011101110 = .ret ∧ decode 0b0000000000000000 = .unknown 0 ∧
    decode 0b0000000100100011 = .unknown 0x0123 ∧ decode 0b0000000111100000 = .unknown 0x01E0 ∧
    decode 0b0000000011100001 = .unknown 0x00E1 ∧ decode 0b0000000011101111 = .unknown 0x00EF := by decide

/-- Format `NNN`. -/
theorem test_decode_nnn :
    decode 0b0001001000110100 = .jp 0x234 ∧ decode 0b0010001000010000 = .call 0x210 ∧
    decode 0b1010010001010110 = .ldI 0x456 ∧ decode 0b1011111111111111 = .jpV0 0xFFF := by decide

/-- Format `XNN`. -/
theorem test_decode_xnn :
    decode 0b0011001100000000 = .seImm 3 0x00 ∧ decode 0b0100000100000110 = .sneImm 1 0x06 ∧
    decode 0b0110101000111100 = .ldImm 0xA 0x3C ∧ decode 0b0111001100000010 = .addImm 3 0x02 ∧
    decode 0b1100001100001111 = .rnd 3 0x0F := by decide

/-- Format `XY`, class 0x8 (R96). -/
theorem test_decode_class8 :
    decode 0b1000000100100000 = .ldReg 1 2 ∧ decode 0b1000000100100001 = .orReg 1 2 ∧
    decode 0b1000000100100010 = .andReg 1 2 ∧ decode 0b1000000100100011 = .xorReg 1 2 ∧
    decode 0b1000000100100100 = .addReg 1 2 ∧ decode 0b1000000100100101 = .subReg 1 2 ∧
    decode 0b1000000100100110 = .shr 1 2 ∧ decode 0b1000000100100111 = .subnReg 1 2 ∧
    decode 0b1000000100101110 = .shl 1 2 ∧ decode 0b1000000000001000 = .unknown 0x8008 := by decide

/-- Classes 0x5, 0x9 and 0xD (R100), DEC8. -/
theorem test_decode_xyn :
    decode 0b0101101010110011 = .seReg 0xA 0xB 3 ∧ decode 0b1001001001010000 = .sneReg 2 5 0 ∧
    decode 0b1101000000010001 = .drw 0 1 1 := by decide

/-- Format `XF`, class 0xE (R97), DEC6. -/
theorem test_decode_classE :
    decode 0b1110000110011110 = .skp 1 ∧ decode 0b1110000110100001 = .sknp 1 ∧
    decode 0b1110000010011111 = .unknown 0xE09F ∧ decode 0b1110000010100000 = .unknown 0xE0A0 := by decide

/-- Format `XF`, class 0xF (R98), DEC7. -/
theorem test_decode_classF :
    decode 0b1111001100000111 = .ldVxDt 3 ∧ decode 0b1111001000001010 = .ldVxK 2 ∧
    decode 0b1111000000010101 = .ldDtVx 0 ∧ decode 0b1111000000011000 = .ldStVx 0 ∧
    decode 0b1111001000011110 = .addI 2 ∧ decode 0b1111000000101001 = .ldF 0 ∧ decode 0b1111101000110011 = .ldB 0xA ∧
    decode 0b1111001001010101 = .dumpRegs 2 ∧ decode 0b1111111101100101 = .loadRegs 0xF ∧
    decode 0b1111000001110101 = .unknown 0xF075 := by decide

/-- Bytes are read high byte first, and one byte is no instruction (R65, R91). -/
theorem test_decodeBytes :
    decodeBytes [0x6A, 0x3C, 0x99] = .ok (.ldImm 0xA 0x3C, [0x99]) ∧ decodeBytes [0x6A] = .error (.truncated 1) ∧
    encodeBytes (.ldImm 0xA 0x3C) = [0x6A, 0x3C] ∧ decodeTableWord 16 0xD011 = some (.drw 0 1 1) := by
  refine ⟨rfl, rfl, ?_, ?_⟩ <;> decide

/-! ## Control transfer -/

/-- CF1, CF3. -/
theorem test_jp : after rs 0x1234 State.pc = some 0x234 ∧ after rs 0x1FFF State.pc = some 0xFFF := by decide

/-- CF4. -/
theorem test_call :
    after (rs.setPc 0x204) 0x2210 (fun t => (t.pc, t.sp, t.stack[0])) = some (0x210, 1, 0x204) := by decide

/-- CF5, CF6: the sixteenth call, and the seventeenth. -/
theorem test_call_deep :
    after (withSp 15 (rs.setPc 0x300)) 0x2400 (fun t => (t.pc, t.sp, t.stack[15])) = some (0x400, 16, 0x300) ∧
    after (withSp 16 (rs.setPc 0x300)) 0x2400 (fun t => (t.pc, t.sp, faultOf t)) =
      some (0x300, 16, some (1, 0x300, 16)) := by decide

/-- CF7, CF9: the entry stays; PC wraps. -/
theorem test_ret :
    after ((rs.push 0x204 (by decide)).setPc 0x210) 0x00EE (fun t => (t.pc, t.sp, t.stack[0])) = some (0x206, 0, 0x204) ∧
    after (rs.push 0xFFFE (by decide)) 0x00EE (fun t => (t.pc, t.sp)) = some (0x0000, 0) := by decide

/-- CF8. -/
theorem test_ret_empty :
    after (rs.setPc 0x300) 0x00EE (fun t => (t.pc, t.sp, faultOf t)) = some (0x300, 0, some (2, 0x300, 0)) := by decide

/-- CF10, CF11. -/
theorem test_seImm :
    after (rs.setPc 0x208) 0x3300 State.pc = some 0x20C ∧
    after ((rs.setPc 0x208).setV 3 1) 0x3300 State.pc = some 0x20A := by decide

/-- CF12, CF13. -/
theorem test_sneImm :
    after (rs.setV 1 5) 0x4105 State.pc = some 0x202 ∧ after (rs.setV 1 5) 0x4106 State.pc = some 0x204 := by decide

/-- CF15, CF16. -/
theorem test_seReg :
    after (((rs.setPc 0x300).setV 2 0x11).setV 5 0x11) 0x5257 State.pc = some 0x304 ∧
    after (((rs.setPc 0x300).setV 2 0x11).setV 5 0x12) 0x5250 State.pc = some 0x302 := by decide

/-- CF17, CF18. -/
theorem test_sneReg :
    after (((rs.setPc 0x300).setV 2 0x11).setV 5 0x12) 0x9250 State.pc = some 0x304 ∧
    after ((rs.setPc 0x300).setV 2 0x11) 0x9220 State.pc = some 0x302 := by decide

/-- CF19, CF20. -/
theorem test_jpV0 :
    after (rs.setV 0 0x04) 0xB300 State.pc = some 0x304 ∧ after (rs.setV 0 0xFF) 0xBFFF State.pc = some 0x10FE := by decide

/-- CF21, CF23: a fetch out of range, one byte or both. -/
theorem test_fetch_fault :
    afterRun 1 (rs.setPc 0x10FE) (fun t => (t.pc, faultOf t)) = some (0x10FE, some (3, 0x10FE, 0x10FE)) ∧
    afterRun 1 (rs.setPc 0xFFF) (fun t => (t.pc, faultOf t)) = some (0xFFF, some (3, 0xFFF, 0x1000)) := by decide

/-- CF23 under `wrap`, CF24: the word at 0xFFF and 0x000, the word at 0xFFE. -/
theorem test_fetch_edge :
    afterRun 1 (((wrapped rs).setPc 0xFFF).writeByte 0xFFF 0x12 |>.writeByte 0 0x34) State.pc = some 0x234 ∧
    afterRun 1 ((rs.setPc 0xFFE).writeByte 0xFFE 0x12 |>.writeByte 0xFFF 0x34) State.pc = some 0x234 := by decide

/-! ## Loads and ALU -/

/-- ALU1 (V1), ALU2. -/
theorem test_ldImm :
    after rs 0x6A3C (fun t => (t.getV 0xA, t.pc)) = some (0x3C, 0x202) ∧
    after (rs.setV vf 1) 0x6F00 (fun t => t.getV vf) = some 0 := by decide

/-- ALU3 (V2), ALU4. -/
theorem test_addImm :
    after ((rs.setV 3 0xFF).setV vf 0x5A) 0x7302 (fun t => (t.getV 3, t.getV vf, t.pc)) = some (0x01, 0x5A, 0x202) ∧
    after (rs.setV vf 0x10) 0x7FF5 (fun t => t.getV vf) = some 0x05 := by decide

/-- ALU5. -/
theorem test_ldReg : after (rs.setV 1 0x42) 0x8010 (fun t => (t.getV 0, t.getV 1)) = some (0x42, 0x42) := by decide

/-- ALU6. -/
theorem test_orReg :
    after (((rs.setV 0 0xF0).setV 1 0x0F).setV vf 0x77) 0x8011 (fun t => (t.getV 0, t.getV vf)) = some (0xFF, 0x77) := by
  decide

/-- ALU7. -/
theorem test_andReg : after ((rs.setV 0 0xF0).setV 1 0x3C) 0x8012 (fun t => t.getV 0) = some 0x30 := by decide

/-- ALU7, ALU7a. -/
theorem test_xorReg :
    after ((rs.setV 0 0xF0).setV 1 0x3C) 0x8013 (fun t => t.getV 0) = some 0xCC ∧
    after (rs.setV 0 0xAB) 0x8003 (fun t => t.getV 0) = some 0 := by decide

/-- ALU8, ALU9. -/
theorem test_addReg :
    after ((rs.setV 0 0xFF).setV 1 0x01) 0x8014 (fun t => (t.getV 0, t.getV vf)) = some (0x00, 1) ∧
    after ((rs.setV 0 0x80).setV 1 0x7F) 0x8014 (fun t => (t.getV 0, t.getV vf)) = some (0xFF, 0) := by decide

/-- ALU11, ALU12: VF as destination, VF as addend. -/
theorem test_addReg_vf :
    after ((rs.setV vf 0x80).setV 1 0x80) 0x8F14 (fun t => t.getV vf) = some 1 ∧
    after ((rs.setV 0 0x01).setV vf 0xFF) 0x80F4 (fun t => (t.getV 0, t.getV vf)) = some (0x00, 1) := by decide

/-- ALU13, ALU14. -/
theorem test_subReg :
    after ((rs.setV 0 0x10).setV 1 0x20) 0x8015 (fun t => (t.getV 0, t.getV vf)) = some (0xF0, 0) ∧
    after ((rs.setV 0 0x20).setV 1 0x20) 0x8015 (fun t => (t.getV 0, t.getV vf)) = some (0x00, 1) := by decide

/-- ALU15, ALU16. -/
theorem test_subReg_edge :
    after (rs.setV 1 0x01) 0x8015 (fun t => (t.getV 0, t.getV vf)) = some (0xFF, 0) ∧
    after ((rs.setV vf 0x05).setV 1 0x03) 0x8F15 (fun t => t.getV vf) = some 1 := by decide

/-- ALU17, ALU18. -/
theorem test_subnReg :
    after ((rs.setV 0 0x10).setV 1 0x20) 0x8017 (fun t => (t.getV 0, t.getV vf)) = some (0x10, 1) ∧
    after ((rs.setV 0 0x20).setV 1 0x10) 0x8017 (fun t => (t.getV 0, t.getV vf)) = some (0xF0, 0) := by decide

/-- ALU19, ALU21. -/
theorem test_shr :
    after (rs.setV 2 0x05) 0x8206 (fun t => (t.getV 2, t.getV vf)) = some (0x02, 1) ∧
    after ((rs.setV 2 0x80).setV 3 0x01) 0x8236 (fun t => (t.getV 2, t.getV vf, t.getV 3)) = some (0x40, 0, 0x01) := by
  decide

/-- ALU22. -/
theorem test_shr_vf : after (rs.setV vf 0x02) 0x8F06 (fun t => t.getV vf) = some 0 := by decide

/-- ALU23, ALU24. -/
theorem test_shl :
    after (rs.setV 2 0x81) 0x820E (fun t => (t.getV 2, t.getV vf)) = some (0x02, 1) ∧
    after (rs.setV 2 0x7F) 0x820E (fun t => (t.getV 2, t.getV vf)) = some (0xFE, 0) := by decide

/-- ALU25. -/
theorem test_shl_vf : after (rs.setV vf 0x40) 0x8F0E (fun t => t.getV vf) = some 0 := by decide

/-- ALU27: with mask 0 the answer is 0 whatever the draw, and a draw is used up. -/
theorem test_rnd_counts : after (rs.setV 3 0x55) 0xC300 (fun t => (t.draws, t.pc)) = some (1, 0x202) := by rfl

/-- ALU28, for any answer: mask 0xFF gives the raw byte. -/
theorem test_rnd_raw : after rs 0xC3FF (fun t => t.getV 3) = some (Config.randByte 0 &&& 0xFF) := by rfl

/-! ## Index register and memory -/

/-- IDX1. -/
theorem test_ldI : after (rs.setI 0xF123) 0xA456 State.i = some 0x0456 := by decide

/-- IDX2, IDX3. -/
theorem test_addI :
    after (((rs.setI 0x0FFE).setV 2 0x05).setV vf 0x33) 0xF21E (fun t => (t.i, t.getV vf)) = some (0x1003, 0x33) ∧
    after ((rs.setI 0xFFFF).setV 0 0x01) 0xF01E State.i = some 0x0000 := by decide

/-- IDX5. -/
theorem test_ldF :
    after (rs.setV 0 0x0A) 0xF029 State.i = some 0x082 ∧ after (rs.setV 0 0xFF) 0xF029 State.i = some 0x54B := by decide

/-- IDX6. -/
theorem test_ldB :
    after ((rs.setV 0xA 0x9C).setI 0x300) 0xFA33
      (fun t => (t.readByte 0x300, t.readByte 0x301, t.readByte 0x302, t.i)) = some (0x01, 0x05, 0x06, 0x300) := by decide

/-- IDX8, both policies. -/
theorem test_ldB_edge :
    after ((rs.setV 0 0x7B).setI 0xFFE) 0xF033 (fun t => (t.readByte 0xFFE, t.pc, faultOf t)) =
      some (0x00, 0x200, some (5, 0x200, 0x1000)) ∧
    after (((wrapped rs).setV 0 0x7B).setI 0xFFE) 0xF033
      (fun t => (t.readByte 0xFFE, t.readByte 0xFFF, t.readByte 0x000, t.pc)) = some (1, 2, 3, 0x202) := by decide

/-- IDX9. -/
theorem test_dumpRegs :
    after ((((rs.setV 0 0x11).setV 1 0x22).setV 2 0x33).setI 0x400) 0xF255
      (fun t => ([0x400, 0x401, 0x402, 0x403].map t.readByte, t.i)) = some ([0x11, 0x22, 0x33, 0x00], 0x400) := by decide

/-- IDX11, IDX12: the last sixteen bytes, and one past the end. -/
theorem test_dumpRegs_edge :
    after (((rs.setV 0 0x70).setV vf 0x7F).setI 0xFF0) 0xFF55 (fun t => (t.readByte 0xFF0, t.readByte 0xFFF, t.fault)) =
      some (0x70, 0x7F, none) ∧
    after (rs.setI 0x1000) 0xF055 faultOf = some (some (5, 0x200, 0x1000)) := by decide

/-- IDX13. -/
theorem test_loadRegs :
    after ((((rs.writeByte 0x300 1).writeByte 0x301 5).writeByte 0x302 6 |>.setV 3 0x77).setI 0x300) 0xF265
      (fun t => ([0, 1, 2, 3].map t.getV, t.i)) = some ([1, 5, 6, 0x77], 0x300) := by decide

/-- IDX15, both policies. -/
theorem test_loadRegs_edge :
    after ((rs.writeByte 0xFFF 9).setI 0xFF1) 0xFF65 (fun t => (t.getV 0xE, faultOf t)) =
      some (0, some (4, 0x200, 0x1000)) ∧
    after (((wrapped rs).writeByte 0 0x5A).setI 0xFF1) 0xFF65 (fun t => t.getV vf) = some 0x5A := by decide

/-! ## Display -/

/-- DSP1. -/
theorem test_cls :
    after ((rs.setDisp (rs.disp.flip (5, 6))).setV vf 7) 0x00E0
      (fun t => (t.disp.get (5, 6), t.draw, t.getV vf, t.pc)) = some (false, true, 7, 0x202) := by decide

/-- DSP5, DSP6 in one origin: (0x40, 0x3F) is reduced to (0, 31), and the second row wraps to the top. -/
theorem test_drw_wraps :
    after (((((rs.writeByte 0x300 0xC0).writeByte 0x301 0x80).setV 0 0x40).setV 1 0x3F).setI 0x300) 0xD012
      (fun t => ([(0, 31), (1, 31), (0, 0), (1, 0), (0, 1)].map t.disp.get, t.getV vf, t.draw)) =
      some ([true, true, true, false, false], 0, true) := by decide

/-- DSP12, DSP10 under `fault`: a collision beside a fresh pixel; a sprite that leaves memory draws nothing. -/
theorem test_drw_collides_and_faults :
    after (((rs.setDisp (rs.disp.flip (1, 0))).writeByte 0x300 0xC0).setI 0x300) 0xD011
      (fun t => (t.disp.get (0, 0), t.disp.get (1, 0), t.getV vf)) = some (true, false, 1) ∧
    after (((rs.writeByte 0xFFF 0x80).setV vf 7).setI 0xFFF) 0xD012
      (fun t => (t.disp.get (0, 0) || t.draw, t.getV vf, faultOf t)) = some (false, 7, some (4, 0x200, 0x1000)) := by
  decide

/-! ## Keys and timers -/

/-- KT1, KT5. -/
theorem test_skp :
    after (((rs.setPc 0x210).setV 1 7).setKeyFlag 7 true) 0xE19E State.pc = some 0x214 ∧
    after ((rs.setPc 0x210).setV 1 0x10) 0xE19E (fun t => (t.pc, faultOf t)) = some (0x210, some (6, 0x210, 0x10)) := by
  decide

/-- KT3, KT4. -/
theorem test_sknp :
    after ((rs.setPc 0x210).setV 1 7) 0xE1A1 State.pc = some 0x214 ∧
    after (((rs.setPc 0x210).setV 1 7).setKeyFlag 7 true) 0xE1A1 State.pc = some 0x212 := by decide

/-- KT10. -/
theorem test_ldVxDt : after (rs.setDt 0x3C) 0xF307 (fun t => (t.getV 3, t.dt)) = some (0x3C, 0x3C) := by decide

/-- KT11. -/
theorem test_ldDtVx : after (rs.setV 0 5) 0xF015 (fun t => (t.dt, t.st)) = some (5, 0) := by decide

/-- KT12. -/
theorem test_ldStVx : after (rs.setV 0 2) 0xF018 (fun t => (t.dt, t.st)) = some (0, 2) := by decide

/-- KT7, KT8: a held key does not resolve the wait. -/
theorem test_ldVxK :
    after (((rs.setPc 0x20A).setV 2 0x99).setKeyFlag 5 true) 0xF20A (fun t => (t.susp, t.waitReg, t.pc, t.getV 2)) =
      some (true, 2, 0x20A, 0x99) := by decide

/-- KT7, KT9: the press that resolves it. -/
theorem test_setKey_resolves :
    afterRun 1 (calling [.setKey 0xB true] ((rs.setPc 0x20A).suspend 2))
      (fun t => (t.getV 2, t.pc, t.susp, t.getKey 0xB)) = some (0x0B, 0x20C, false, true) ∧
    afterRun 1 (calling [.setKey 0xA true] ((rs.setPc 0x300).suspend vf)) (fun t => (t.getV vf, t.pc)) =
      some (0x0A, 0x302) := by decide

/-! ## Decode failure, faults, host operations -/

/-- DEC9, DEC1: with the diagnostic, and without. -/
theorem test_unknown :
    after (({ rs with cfg := { rs.cfg with diagUnknown := true } } : State).setPc 0x300) 0xFFFF
      (fun t => (t.pc, t.outbox)) = some (0x302, [.unknownOpcode 0xFFFF 0x300]) ∧
    after rs 0x0000 (fun t => (t.pc, t.outbox)) = some (0x202, []) := by decide

/-- The codes of R242. -/
theorem test_codes :
    [.stackOverflow, .stackUnderflow, .outOfRange .fetch, .outOfRange .read, .outOfRange .write,
      .keyIndexOutOfRange].map FaultCause.code = [1, 2, 3, 4, 5, 6] := by decide

/-- FLT1, FLT2, KT13: a faulted core ignores execute and serves tick and setKey. -/
theorem test_faulted :
    afterRun 3 (calling [.execute, .tick, .setKey 2 true] ((faulted rs).setDt 2))
      (fun t => (t.pc, faultOf t, t.dt, t.getKey 2)) = some (0x200, some (1, 0x200, 16), 1, true) := by decide

/-- FLT3. -/
theorem test_reset_clears_fault :
    afterRun 1 (calling [.reset] ((faulted rs).setI 9)) (fun t => (t.fault, t.i, t.sp, t.pc)) =
      some (none, 0, 0, 0x200) := by decide

/-- KT6, KT6a. -/
theorem test_tick :
    afterRun 2 (calling [.tick, .tick] (rs.setDt 5)) (fun t => (t.dt, t.st)) = some (3, 0) ∧
    afterRun 2 (calling [.tick, .tick] (rs.setSt 1)) (fun t => (t.dt, t.st)) = some (0, 0) := by decide

/-- HOST3, HOST4. -/
theorem test_load :
    afterRun 1 (calling [.load [0xAA, 0xBB, 0xCC]] rs) (fun t => ([0x200, 0x201, 0x202, 0x203].map t.readByte, t.pc)) =
      some ([0xAA, 0xBB, 0xCC, 0], 0x200) ∧
    afterRun 1 (calling [.load [0xAA]] ((rs.writeByte 0x200 0x11).writeByte 0x201 0x22))
      (fun t => [0x200, 0x201].map t.readByte) = some [0xAA, 0x22] := by decide

/-- HOST7, HOST8, HOST9. -/
theorem test_host_calls :
    afterRun 1 (calling [.setKey 16 true] rs) (fun t => (t.key, t.outbox)) = some (rs.key, [.setKeyRefused 16]) ∧
    afterRun 1 (calling [.clearDrawFlag] (rs.setDraw true)) State.draw = some false ∧
    afterRun 1 (calling [.resetKeys] ((rs.setKeyFlag 1 true).setKeyFlag 9 true)) State.key = some rs.key := by decide

/-- HOST1: the font's first glyph, and glyph F's last byte (R67). -/
theorem test_font :
    [0x050, 0x051, 0x052, 0x053, 0x054, 0x09B, 0x09F, 0x0A0].map rs.readByte =
      [0xF0, 0x90, 0x90, 0x90, 0xF0, 0xF0, 0x80, 0x00] := by decide

/-! ## Witnesses: hypotheses of the obligations are met -/

theorem witness_DecodeAfterEncodeIsIdentity :
    (Instr.unknown 0xFFFF).wf = true ∧ (Instr.unknown 0x0FFF).wf = true ∧ (Instr.seReg 0xF 0xF 0xF).wf = true := by decide

/-- The first and last words of each class. -/
theorem witness_SecondLevelClassesDecode :
    opField 0x0000 = 0x0 ∧ opField 0x0FFF = 0x0 ∧ opField 0x8000 = 0x8 ∧ opField 0x8FFF = 0x8 ∧ opField 0xE000 = 0xE ∧
    opField 0xEFFF = 0xE ∧ opField 0xF000 = 0xF ∧ opField 0xFFFF = 0xF ∧
    opField 0x1000 ∉ [0x0, 0x8, 0xE, 0xF] ∧ opField 0xDFFF ∉ [0x0, 0x8, 0xE, 0xF] := by decide

theorem witness_LowNibbleOfClasses5And9Ignored :
    opField 0x5000 = 0x5 ∧ opField 0x5FFF = 0x5 ∧ opField 0x9000 = 0x9 ∧ opField 0x9FFF = 0x9 := by decide

theorem witness_AddressRule : 4095 < 4096 ∧ 4096 ≤ 4096 := by decide

/-- At the reset entry, and at the last even address. -/
theorem witness_StepRunsDecodedInstruction :
    (rs.schedule = [] ∧ rs.fault = none ∧ rs.susp = false ∧ resolve rs.cfg.oobPolicy rs.pc.toNat = some 0x200 ∧
      resolve rs.cfg.oobPolicy (rs.pc.toNat + 1) = some 0x201 ∧
      (0x0000 : Word).toNat = (rs.readByte 0x200).toNat * 256 + (rs.readByte 0x201).toNat) ∧
    (resolve (wrapped rs).cfg.oobPolicy ((wrapped rs).setPc 0xFFFF).pc.toNat = some 0xFFF ∧
      resolve (wrapped rs).cfg.oobPolicy (((wrapped rs).setPc 0xFFFF).pc.toNat + 1) = some 0x000) := by decide

theorem witness_FetchOutOfRangeFaults :
    rs.schedule = [] ∧ rs.fault = none ∧ rs.susp = false ∧ rs.cfg.oobPolicy = .fault ∧
    4096 ≤ (rs.setPc 0x1000).pc.toNat ∧ 4096 ≤ (rs.setPc 0xFFFF).pc.toNat ∧ (rs.setPc 0x0FFF).pc.toNat = 4095 := by decide

theorem witness_BlockedExecuteChangesNothing :
    ((faulted rs).fault ≠ none ∧ (faulted rs).schedule = []) ∧
    ((rs.suspend 2).susp = true ∧ (calling [.execute] (rs.suspend 2)).schedule = .execute :: []) := by decide

theorem witness_ScheduledExecuteIsAStep :
    step { calling [.tick] rs with schedule := [] } = .next (rs.advance 2) := by rfl

theorem witness_StepKeepsInv : rs.Inv ∧ step rs = .next (rs.advance 2) :=
  ⟨⟨rfl, fun _ h => by cases h⟩, rfl⟩

/-- A faulted state meets the invariant, and a step from it is defined. -/
theorem witness_StepKeepsInv_faulted : (faulted rs).Inv ∧ step (faulted rs) = .next (faulted rs) :=
  ⟨⟨rfl, fun _ h => by cases h; exact ⟨rfl, rfl, rfl, rfl⟩⟩, rfl⟩

/-- The last two bytes of memory. -/
theorem witness_StoredBytesAreFetched :
    ∃ t, (1 : Nibble) ≠ 0 ∧ Accessible (rs.setI 0xFFE) (rs.setI 0xFFE).i.toNat ((1 : Nibble).toNat + 1) ∧
      exec (.dumpRegs 1) (rs.setI 0xFFE) = .next t := ⟨_, by decide, by decide, rfl⟩

/-- One row of the table for each cause but the fetch's, and an instruction that raises nothing. -/
theorem witness_InstructionFaultsExactlyAsTabled :
    Raises (.call 0) (withSp 16 rs) .stackOverflow 16 ∧ Raises .ret rs .stackUnderflow 0 ∧
    Raises (.drw 0 0 2) (rs.setI 0xFFF) (.outOfRange .read) 4096 ∧
    Raises (.loadRegs 0) (rs.setI 0xFFFF) (.outOfRange .read) 65535 ∧
    Raises (.ldB 0) (rs.setI 0xFFE) (.outOfRange .write) 4096 ∧
    Raises (.dumpRegs 15) (rs.setI 0xFF1) (.outOfRange .write) 4096 ∧
    Raises (.skp 1) (rs.setV 1 16) .keyIndexOutOfRange 16 ∧ Raises (.sknp 1) (rs.setV 1 255) .keyIndexOutOfRange 255 := by
  unfold Raises; decide

theorem witness_InstructionFaultsExactlyAsTabled_none :
    (∀ c info, ¬ Raises .cls rs c info) ∧ (∀ c info, ¬ Raises .ret (withSp 1 rs) c info) ∧
    (∀ c info, ¬ Raises (.skp 1) (rs.setV 1 15) c info) :=
  ⟨fun _ _ h => h, fun _ _ h => absurd h.2.1 (by decide), fun _ _ h => absurd h.2.1 (by decide)⟩

/-- The fetch's fault, and an instruction's, by an execute that no call precedes and by a scheduled one. -/
theorem witness_FaultsExactlyAsTabled :
    ((rs.setPc 0x1000).fault = none ∧ (rs.setPc 0x1000).schedule = [] ∧ (rs.setPc 0x1000).susp = false ∧
      FetchRaises (rs.setPc 0x1000) 4096 ∧ FetchRaises (rs.setPc 0xFFF) 4096 ∧
      step (rs.setPc 0x1000) = .next ((rs.setPc 0x1000).recordFault (.outOfRange .fetch) 4096)) ∧
    (∃ t, step (calling [.execute] (rs.withFetchWord 16 0x00EE)) = .next t ∧
      (calling [.execute] (rs.withFetchWord 16 0x00EE)).schedule.head? = some .execute ∧
      (rs.withFetchWord 16 0x00EE).fetchWord = .ok 0x00EE ∧
      Raises (decode 0x00EE) (rs.withFetchWord 16 0x00EE) .stackUnderflow 0 ∧
      t.fault = some ⟨.stackUnderflow, 0x200, 0⟩) :=
  ⟨⟨rfl, rfl, rfl, ⟨rfl, by decide⟩, ⟨rfl, by decide⟩, rfl⟩, _, rfl, rfl, rfl, ⟨rfl, rfl, rfl⟩, rfl⟩

theorem witness_OnlyResetClearsFault :
    (faulted rs).fault = some ⟨.stackOverflow, 0x200, 16⟩ ∧ step (faulted rs) = .next (faulted rs) ∧
    step (calling [.reset] (faulted rs)) = .next rs := ⟨rfl, rfl, rfl⟩

theorem witness_RegistersWrittenOnlyByDestination :
    ∃ t, exec (.addReg 1 2) rs = .next t ∧ writesReg (.addReg 1 2) 2 = false ∧
      writesReg (.loadRegs 0xE) 0xF = false := ⟨_, rfl, rfl, rfl⟩

/-- One instruction outside the writers of each clause. -/
theorem witness_IndexMemoryDisplayKeysWriters :
    ∃ t, exec (.ldImm 1 2) rs = .next t ∧ (∀ nnn, Instr.ldImm 1 2 ≠ .ldI nnn) ∧
      (∀ x, Instr.ldImm 1 2 ≠ .addI x ∧ Instr.ldImm 1 2 ≠ .ldF x) ∧
      (∀ x, Instr.ldImm 1 2 ≠ .ldB x ∧ Instr.ldImm 1 2 ≠ .dumpRegs x) ∧ Instr.ldImm 1 2 ≠ .cls ∧
      ∀ x y n, Instr.ldImm 1 2 ≠ .drw x y n := ⟨_, rfl, by simp⟩

theorem witness_StackTouchedOnlyByCallAndReturn :
    (∃ t, exec .cls rs = .next t ∧ (∀ nnn, Instr.cls ≠ .call nnn) ∧ Instr.cls ≠ .ret) ∧
    (∃ t, exec (.call 0) (withSp 16 rs) = .next t ∧ (withSp 16 rs).sp.val = 16) ∧
    (∃ t, exec .ret rs = .next t ∧ rs.sp.val = 0) := ⟨⟨_, rfl, by simp⟩, ⟨_, rfl, rfl⟩, _, rfl, rfl⟩

/-- A fault, each operation that sets PC or keeps it, and a skip. -/
theorem witness_PcAdvancesPerOperation :
    (∃ t, exec .ret rs = .next t ∧ ∃ c info, Raises .ret rs c info) ∧
    (∃ t, exec (.jp 0xFFF) rs = .next t ∧ ∀ c info, ¬ Raises (.jp 0xFFF) rs c info) ∧
    (∃ t, exec (.call 0xFFF) (withSp 15 rs) = .next t ∧ ∀ c info, ¬ Raises (.call 0xFFF) (withSp 15 rs) c info) ∧
    (∃ t, exec (.jpV0 0xFFF) rs = .next t ∧ ∀ c info, ¬ Raises (.jpV0 0xFFF) rs c info) ∧
    (∃ t, exec .ret (withSp 16 rs) = .next t ∧ ∀ c info, ¬ Raises .ret (withSp 16 rs) c info) ∧
    (∃ t, exec (.ldVxK 0) rs = .next t ∧ ∀ c info, ¬ Raises (.ldVxK 0) rs c info) ∧
    (∃ t, exec (.seImm 0 0) rs = .next t ∧ (∀ c info, ¬ Raises (.seImm 0 0) rs c info) ∧
      (∀ nnn, Instr.seImm 0 0 ≠ .jp nnn ∧ Instr.seImm 0 0 ≠ .call nnn ∧ Instr.seImm 0 0 ≠ .jpV0 nnn) ∧
      Instr.seImm 0 0 ≠ .ret ∧ ∀ x, Instr.seImm 0 0 ≠ .ldVxK x) :=
  ⟨⟨_, rfl, .stackUnderflow, 0, rfl, rfl, rfl⟩, ⟨_, rfl, fun _ _ h => h⟩, ⟨_, rfl, fun _ _ h => absurd h.2.1 (by decide)⟩,
    ⟨_, rfl, fun _ _ h => h⟩, ⟨_, rfl, fun _ _ h => absurd h.2.1 (by decide)⟩, ⟨_, rfl, fun _ _ h => h⟩, _, rfl,
    fun _ _ h => h, by simp⟩

theorem witness_TimersRiseOnlyWhenSet :
    (∃ t, step ((rs.setV 0 5).withFetchWord 16 0xF015) = .next t ∧
      ((rs.setV 0 5).withFetchWord 16 0xF015).dt.toNat < t.dt.toNat) ∧
    (∃ t, step ((rs.setV 0 255).withFetchWord 16 0xF018) = .next t ∧
      ((rs.setV 0 255).withFetchWord 16 0xF018).st.toNat < t.st.toNat) :=
  ⟨⟨_, rfl, by decide⟩, _, rfl, by decide⟩

/-- SP at both ends of each clause. -/
theorem witness_CallPushesItsAddress : rs.sp.val < 16 ∧ (withSp 15 rs).sp.val < 16 ∧ (withSp 16 rs).sp.val = 16 := by decide

theorem witness_ReturnPopsAndAdvances :
    (withSp 1 rs).sp.val = 0 + 1 ∧ (withSp 16 rs).sp.val = 15 + 1 ∧ rs.sp.val = 0 := by decide

theorem witness_ReturnUndoesCall : rs.sp.val < 16 ∧ (withSp 15 rs).sp.val < 16 := by decide

theorem witness_ConditionalSkips :
    (Instr.seImm 1 0 = .seImm 1 0) ∧ (∃ y n, Instr.seReg 1 2 7 = .seReg 1 y n ∧ (0 : Byte) = rs.getV y) ∧
    (Instr.sneImm 1 0 = .sneImm 1 0) ∧ (∃ y n, Instr.sneReg 1 2 7 = .sneReg 1 y n ∧ (0 : Byte) = rs.getV y) :=
  ⟨rfl, ⟨2, 7, rfl, rfl⟩, rfl, 2, 7, rfl, rfl⟩

theorem witness_RegisterLoads :
    (Instr.ldImm 0xF 0xFF = .ldImm 0xF 0xFF) ∧ (∃ y, Instr.ldReg 1 2 = .ldReg 1 y ∧ (0 : Byte) = rs.getV y) ∧
    (Instr.ldVxDt 3 = .ldVxDt 3 ∧ (0 : Byte) = rs.dt) := ⟨rfl, ⟨2, rfl, rfl⟩, rfl, rfl⟩

theorem witness_BitwiseOperations :
    (Instr.orReg 1 2 = .orReg 1 2 ∧ or = or) ∧ (Instr.andReg 1 2 = .andReg 1 2 ∧ and = and) ∧
    (Instr.xorReg 1 1 = .xorReg 1 1 ∧ xor = xor) := ⟨⟨rfl, rfl⟩, ⟨rfl, rfl⟩, rfl, rfl⟩

/-- A destination other than VF, and a register that is neither. -/
theorem witness_AddRegistersWithCarry : (0xE : Nibble) ≠ vf ∧ (0 : Nibble) ≠ 0xE ∧ (0 : Nibble) ≠ vf := by decide

theorem witness_ShiftsInPlace : (0 : Nibble) ≠ vf ∧ (1 : Nibble) ≠ 0 ∧ (1 : Nibble) ≠ vf := by decide

/-- Either subtraction, with a destination other than VF and with VF. -/
theorem witness_SubtractWithNoBorrow :
    (Instr.subReg 0 1 = .subReg 0 1 ∧ (0x10 : Byte) = (rs.setV 0 0x10).getV 0 ∧ (0 : Byte) = (rs.setV 0 0x10).getV 1) ∧
    (Instr.subnReg vf 1 = .subnReg vf 1 ∧ (0 : Byte) = (rs.setV 0 0x10).getV 1 ∧ (0 : Byte) = (rs.setV 0 0x10).getV vf) ∧
    (0 : Nibble) ≠ vf := by decide

theorem witness_IndexRegisterWrites :
    (∃ nnn, Instr.ldI 0xFFF = .ldI nnn ∧ 0xFFF = nnn.toNat) ∧
    (∃ x, Instr.addI 0 = .addI x ∧ 0 = (((rs.setV 0 1).setI 0xFFFF).i.toNat + ((rs.setV 0 1).getV x).toNat) % 65536) ∧
    (∃ x, Instr.ldF 0 = .ldF x ∧ 0x54B = 0x050 + ((rs.setV 0 0xFF).getV x).toNat * 5) :=
  ⟨⟨0xFFF, rfl, rfl⟩, ⟨0, rfl, rfl⟩, 0, rfl, rfl⟩

/-- The last accessible place, the first that faults, and the wrap. -/
theorem witness_BcdStored :
    Accessible (rs.setI 0xFFD) (rs.setI 0xFFD).i.toNat 3 ∧ LowestOutOfRange (rs.setI 0xFFE) 3 4096 ∧
    LowestOutOfRange (rs.setI 0xFFFF) 3 65535 ∧
    Accessible ((wrapped rs).setI 0xFFFF) ((wrapped rs).setI 0xFFFF).i.toNat 3 ∧
    resolve OobPolicy.wrap 0xFFFF = some 0xFFF ∧ resolve OobPolicy.wrap (0xFFFF + 1) = some 0 ∧
    resolve OobPolicy.wrap (0xFFFF + 2) = some 1 ∧ (∀ k < 3, resolve OobPolicy.wrap (0xFFFF + k) ≠ some 2) := by decide

theorem witness_RegistersDumped :
    Accessible (rs.setI 0xFF0) (rs.setI 0xFF0).i.toNat ((0xF : Nibble).toNat + 1) ∧
    LowestOutOfRange (rs.setI 0xFF1) ((0xF : Nibble).toNat + 1) 4096 ∧
    LowestOutOfRange (rs.setI 0x1000) ((0 : Nibble).toNat + 1) 4096 ∧
    resolve OobPolicy.fault (0xFF0 + 15) = some 0xFFF ∧
    (∀ k ≤ 15, resolve OobPolicy.fault (0xFF0 + k) ≠ some 0xFEF) := by decide

theorem witness_RegistersLoaded :
    Accessible (rs.setI 0xFF0) (rs.setI 0xFF0).i.toNat ((0xF : Nibble).toNat + 1) ∧
    LowestOutOfRange (rs.setI 0xFF1) ((0xF : Nibble).toNat + 1) 4096 ∧
    resolve OobPolicy.fault (0xFF0 + (0xE : Nibble).toNat) = some 0xFFE ∧ (0xE : Nibble).toNat < (0xF : Nibble).toNat := by
  decide

/-- A covered pixel, set (a collision) or unset; a pixel that is not covered; a sprite that leaves memory. -/
theorem witness_SpriteDrawn :
    (Accessible (rs.setI 0x050) (rs.setI 0x050).i.toNat (5 : Nibble).toNat ∧
      Covers 0 0 5 (rs.setI 0x050).spriteRow (0, 0) ∧
      ((rs.setI 0x050).setDisp (rs.disp.flip (0, 0))).disp.get (0, 0) = true ∧
      ¬ Covers 0 0 5 (rs.setI 0x050).spriteRow (5, 5)) ∧
    (∀ p, Covers 0 0 5 (rs.setI 0x050).spriteRow p → rs.disp.get p = false) ∧
    LowestOutOfRange (rs.setI 0xFFF) (2 : Nibble).toNat 4096 := by
  refine ⟨⟨by decide, ⟨0, by decide, 0, by decide, by decide, by decide, by decide⟩, by decide, ?_⟩, ?_, by decide⟩
  · rintro ⟨r, hr, c, -, -, -, hy⟩
    simp at hy
    omega
  · exact fun p _ => Display.get_clear p

/-- DSP7: the same sprite at the same origin, drawn twice, the second time from other registers. -/
theorem witness_DrawingTwiceRestores :
    ∃ t u, Accessible (rs.setI 0x050) (rs.setI 0x050).i.toNat (5 : Nibble).toNat ∧
      exec (.drw 0 1 5) (rs.setI 0x050) = .next t ∧ (∀ p, t.disp.get p = t.disp.get p) ∧
      t.getV 2 = (rs.setI 0x050).getV 0 ∧ t.getV 3 = (rs.setI 0x050).getV 1 ∧
      (∀ r < (5 : Nibble).toNat, t.spriteRow r = (rs.setI 0x050).spriteRow r) ∧
      Accessible t t.i.toNat (5 : Nibble).toNat ∧ exec (.drw 2 3 5) t = .next u :=
  ⟨_, _, by decide, rfl, fun _ => rfl, rfl, rfl, fun _ _ => rfl, by decide, rfl⟩

theorem witness_KeySkips :
    (0xF : Nibble).toNat = ((rs.setV 1 15).getV 1).toNat ∧ (0 : Nibble).toNat = (rs.getV 1).toNat ∧
    15 < ((rs.setV 1 16).getV 1).toNat ∧ 15 < ((rs.setV 1 255).getV 1).toNat := by decide

/-- Both ways out of the wait. -/
theorem witness_OnlyKeyPressOrResetEndsWait :
    (∃ t, (calling [.setKey 15 true] (rs.suspend 2)).susp = true ∧
      step (calling [.setKey 15 true] (rs.suspend 2)) = .next t ∧ t.susp = false) ∧
    (∃ t, (calling [.reset] (rs.suspend 2)).susp = true ∧ step (calling [.reset] (rs.suspend 2)) = .next t ∧
      t.susp = false) := ⟨⟨_, rfl, rfl, rfl⟩, _, rfl, rfl, rfl⟩

/-- The calls of KT7, and two more that do not end the wait. -/
theorem witness_KeyWaitResolvesToKey :
    ∃ t : State,
      exec (.ldVxK 2) (calling ([.execute, .tick, .setKey 3 false, .resetKeys, .setKey 16 true, .observe] ++
        [.setKey 0xB true]) rs) = .next t ∧
      (∀ c ∈ [HostCall.execute, .tick, .setKey 3 false, .resetKeys, .setKey 16 true, .observe], c.endsWait = false) ∧
      t.schedule = [.execute, .tick, .setKey 3 false, .resetKeys, .setKey 16 true, .observe] ++
        [.setKey (0xB : Nibble).toNat true] := ⟨_, rfl, by decide, rfl⟩

theorem witness_TicksCountDown :
    (calling [.tick, .tick, .execute] rs).schedule = List.replicate 2 .tick ++ [.execute] ∧
    rs.schedule = List.replicate 0 .tick ++ [] := ⟨rfl, rfl⟩

/-- A press with and without a wait, and a release. -/
theorem witness_SetKeyUpdatesLatchAndResolves :
    ((calling [.setKey (0xF : Nibble).toNat true] (rs.suspend 2)).schedule = [.setKey (0xF : Nibble).toNat true] ∧
      (rs.suspend 2).susp = true) ∧
    ((calling [.setKey (0 : Nibble).toNat false] (rs.suspend 2)).schedule = [.setKey (0 : Nibble).toNat false]) ∧
    rs.susp = false := by decide

theorem witness_ResetKeysAndClearDrawFlag :
    (calling [.resetKeys] rs).schedule = [.resetKeys] ∧ (calling [.clearDrawFlag] rs).schedule = [.clearDrawFlag] := by
  decide

theorem witness_ResetGivesBaseline : (calling [.reset, .tick] (faulted rs)).schedule = [.reset, .tick] := rfl

theorem witness_ResetIsIdempotent :
    ∃ t, step { faulted (rs.setI 5) with schedule := [.reset] } = .next t := ⟨_, rfl⟩

/-- The empty program and the longest one. -/
theorem witness_LoadCopiesProgram :
    ((calling [.load []] rs).schedule = [.load []] ∧ ([] : List Byte).length ≤ 3584) ∧
    ((calling [.load (List.replicate 3584 0xAA)] rs).schedule = [.load (List.replicate 3584 0xAA)] ∧
      (List.replicate 3584 (0xAA : Byte)).length ≤ 3584) := ⟨⟨rfl, by decide⟩, rfl, by rw [List.length_replicate]⟩

theorem witness_ContractViolationsRefused :
    ((calling [.load (List.replicate 3585 0xAA)] rs).schedule = [.load (List.replicate 3585 0xAA)] ∧
      3584 < (List.replicate 3585 (0xAA : Byte)).length) ∧
    ((calling [.setKey 16 false] rs).schedule = [.setKey 16 false] ∧ 15 < 16) :=
  ⟨⟨rfl, by rw [List.length_replicate]; decide⟩, rfl, by decide⟩

theorem witness_ObserveReturnsState : (calling [.observe] rs).schedule = [.observe] := rfl

/-- The shortest image and the longest. -/
theorem witness_LoadedProgramRunsFirst :
    ((calling [.reset, .load [0x22, 0x00]] rs).schedule = [.reset, .load (0x22 :: 0x00 :: [])] ∧
      ([] : List Byte).length + 2 ≤ 3584) ∧
    ((List.replicate 3582 (0xAA : Byte)).length + 2 ≤ 3584) := ⟨⟨rfl, by decide⟩, by rw [List.length_replicate]⟩

/-- The three kinds of parked state. -/
theorem witness_ParkedStateIsFixed :
    (State.Parked (faulted rs) ∧ (faulted rs).schedule = []) ∧
    (State.Parked (rs.suspend 2) ∧ (rs.suspend 2).schedule = []) ∧
    (State.Parked (rs.withFetchWord 16 0x1200) ∧ (rs.withFetchWord 16 0x1200).schedule = []) :=
  ⟨⟨.inl rfl, rfl⟩, ⟨.inr (.inl rfl), rfl⟩, .inr (.inr ⟨0x1200, 0x200, rfl, rfl, rfl⟩), rfl⟩

end Sys2Proof.Tests
end

section
/-! PROOFS. Each meaning and `execute` commute with `State.setSchedule`: the core neither reads nor writes the host's
pending calls (log 3). From this, O11. -/

namespace Sys2Proof.Machine

/-- The outcome with the pending calls of its next state made `cs`. -/
def withSchedule (cs : List HostCall) : Result → Result
  | .next t => .next (t.setSchedule cs)
  | .fault r => .fault r
  | .refused r => .refused r

@[simp] theorem withSchedule_next (cs : List HostCall) (t : State) :
    withSchedule cs (.next t) = .next (t.setSchedule cs) := rfl

section
variable (s : State) (cs : List HostCall)

theorem State.writeBytes_setSchedule (as : List Nat) (bs : List Byte) :
    (s.setSchedule cs).writeBytes as bs = (s.writeBytes as bs).setSchedule cs := by
  induction as generalizing s bs with
  | nil => rfl
  | cons a as ih =>
    cases bs with
    | nil => rfl
    | cons b bs => exact ih (s.writeByte a b) bs

theorem State.setRegsFrom_setSchedule (k : Nat) (bs : List Byte) :
    State.setRegsFrom k bs (s.setSchedule cs) = (State.setRegsFrom k bs s).setSchedule cs := by
  induction bs generalizing k s with
  | nil => rfl
  | cons b bs ih => exact ih (s.setV (BitVec.ofNat 4 k) b) (k + 1)

theorem State.skipIf_setSchedule (c : Bool) : (s.setSchedule cs).skipIf c = (s.skipIf c).setSchedule cs := by
  rw [State.skipIf_eq, State.skipIf_eq]; rfl

/-- A checked access commutes when the operation on the checked addresses does. -/
theorem withRange_setSchedule (kind : AccessKind) (base n : Nat) {go go' : List Nat → Result}
    (hgo : ∀ as, go' as = withSchedule cs (go as)) :
    withRange kind base n (s.setSchedule cs) go' = withSchedule cs (withRange kind base n s go) := by
  unfold withRange
  rw [State.setSchedule_cfg]
  cases resolveRange s.cfg.oobPolicy base n with
  | error a => rfl
  | ok as => exact hgo as

/-- A key skip's check commutes when the operation on the key does. -/
theorem withKey_setSchedule (k : Byte) {go go' : Bool → Result} (hgo : ∀ down, go' down = withSchedule cs (go down)) :
    withKey k (s.setSchedule cs) go' = withSchedule cs (withKey k s go) := by
  unfold withKey
  split
  · rfl
  · exact hgo _

/-- No instruction sees the pending calls. -/
theorem exec_setSchedule (i : Instr) : exec i (s.setSchedule cs) = withSchedule cs (exec i s) := by
  have skip (c : Bool) : Host.Outcome.next ((s.setSchedule cs).skipIf c) = withSchedule cs (.next (s.skipIf c)) :=
    congrArg _ (State.skipIf_setSchedule s cs c)
  cases i
  case ret => simp only [exec, execRet, apply_ite (withSchedule cs)]; rfl
  case call nnn => simp only [exec, execCall, apply_dite (withSchedule cs)]; rfl
  case seImm x nn => exact skip _
  case sneImm x nn => exact skip _
  case seReg x y n => exact skip _
  case sneReg x y n => exact skip _
  case skp x => exact withKey_setSchedule s cs _ fun down => skip down
  case sknp x => exact withKey_setSchedule s cs _ fun down => skip (!down)
  case drw x y n => exact withRange_setSchedule s cs _ _ _ fun as => rfl
  case ldB x => exact withRange_setSchedule s cs _ _ _ fun as => by rw [State.writeBytes_setSchedule]; rfl
  case dumpRegs x => exact withRange_setSchedule s cs _ _ _ fun as => by rw [State.writeBytes_setSchedule]; rfl
  case loadRegs x => exact withRange_setSchedule s cs _ _ _ fun as => by rw [State.setRegsFrom_setSchedule]; rfl
  case unknown w => cases h : s.cfg.diagUnknown <;> simp only [exec, execUnknown, State.setSchedule_cfg, h] <;> rfl
  all_goals rfl

/-- An execute step does not see the pending calls. -/
theorem execute_setSchedule : execute (s.setSchedule cs) = withSchedule cs (execute s) := by
  have hfetch : (s.setSchedule cs).fetchWord = s.fetchWord := rfl
  unfold execute
  rw [State.setSchedule_fault, State.setSchedule_susp, hfetch]
  split
  · rfl
  split
  · rfl
  cases s.fetchWord with
  | error a => rfl
  | ok w => exact exec_setSchedule s cs (decode w)

end

/-- Settles O11: the scheduled call is `execute`, and `execute` commutes with replacing the pending calls. -/
theorem scheduledExecuteIsAStep : Obligations.ScheduledExecuteIsAStep := by
  unfold Obligations.ScheduledExecuteIsAStep
  intro s t rest h
  calc step { s with schedule := .execute :: rest }
      = execute ((s.setSchedule []).setSchedule rest) := rfl
    _ = withSchedule rest (execute (s.setSchedule [])) := execute_setSchedule _ rest
    _ = withSchedule rest (.next t) := congrArg (withSchedule rest) h
    _ = .next { t with schedule := rest } := withSchedule_next rest t

end Sys2Proof.Machine
end

section
/-! PROOFS. What every instruction does, said once (`exec_effect`): it faults as the table of spec/60_exceptions.md R242
says, or it has its `Effect`: the parts and registers it leaves alone, canonical memory, and where PC goes. From this, O19
to O22. -/

namespace Sys2Proof.Machine

/-- The parts of the state an instruction writes when it does not fault (spec/10_state.md R20 to R42). -/
def writtenParts : Instr → List Part
  | .cls => [.pc, .draw, .disp]
  | .ret => [.pc, .sp]
  | .call _ => [.pc, .sp, .stack]
  | .jp _ | .jpV0 _ | .seImm _ _ | .sneImm _ _ | .seReg _ _ _ | .sneReg _ _ _ | .skp _ | .sknp _ => [.pc]
  | .ldImm _ _ | .addImm _ _ | .ldReg _ _ | .orReg _ _ | .andReg _ _ | .xorReg _ _ | .addReg _ _ => [.pc, .v]
  | .subReg _ _ | .shr _ _ | .subnReg _ _ | .shl _ _ | .ldVxDt _ | .loadRegs _ => [.pc, .v]
  | .ldI _ | .addI _ | .ldF _ => [.pc, .i]
  | .rnd _ _ => [.pc, .v, .draws]
  | .drw _ _ _ => [.pc, .v, .draw, .disp]
  | .ldVxK _ => [.wait]
  | .ldDtVx _ => [.pc, .dt]
  | .ldStVx _ => [.pc, .st]
  | .ldB _ | .dumpRegs _ => [.pc, .mem]
  | .unknown _ => [.pc, .outbox]

/-! ### The writers of each part -/

section
variable {i : Instr}

theorem writers_of_i (h : .i ∈ writtenParts i) : (∃ nnn, i = .ldI nnn) ∨ ∃ x, i = .addI x ∨ i = .ldF x := by
  cases i <;> simp [writtenParts] at h ⊢

theorem writers_of_mem (h : .mem ∈ writtenParts i) : ∃ x, i = .ldB x ∨ i = .dumpRegs x := by
  cases i <;> simp [writtenParts] at h ⊢

theorem writers_of_draw (h : .draw ∈ writtenParts i) : i = .cls ∨ ∃ x y n, i = .drw x y n := by
  cases i <;> simp [writtenParts] at h ⊢

theorem writers_of_disp (h : .disp ∈ writtenParts i) : i = .cls ∨ ∃ x y n, i = .drw x y n := by
  cases i <;> simp [writtenParts] at h ⊢

theorem writers_of_sp (h : .sp ∈ writtenParts i) : i = .ret ∨ ∃ nnn, i = .call nnn := by
  cases i <;> simp [writtenParts] at h ⊢

theorem writers_of_stack (h : .stack ∈ writtenParts i) : ∃ nnn, i = .call nnn := by
  cases i <;> simp [writtenParts] at h ⊢

theorem writers_of_dt (h : .dt ∈ writtenParts i) : ∃ x, i = .ldDtVx x := by
  cases i <;> simp [writtenParts] at h ⊢

theorem writers_of_st (h : .st ∈ writtenParts i) : ∃ x, i = .ldStVx x := by
  cases i <;> simp [writtenParts] at h ⊢

theorem key_notMem_writtenParts : .key ∉ writtenParts i := by cases i <;> simp [writtenParts]

theorem fault_notMem_writtenParts : .fault ∉ writtenParts i := by cases i <;> simp [writtenParts]

end

/-! ### The effect of an instruction -/

/-- Where PC may go when an instruction does not fault (spec/10_state.md R29). -/
def PcAfter (i : Instr) (s : State) (w : Word) : Prop :=
  match i with
  | .jp nnn | .call nnn => w = zext16 nnn
  | .jpV0 nnn => w = zext16 nnn + zextByte (s.getV 0)
  | .ret => w = s.top + 2
  | .ldVxK _ => w = s.pc
  | .seImm _ _ | .sneImm _ _ | .seReg _ _ _ | .sneReg _ _ _ | .skp _ | .sknp _ => w = s.pc + 2 ∨ w = s.pc + 4
  | _ => w = s.pc + 2

/-- What an instruction that does not fault may do. -/
structure Effect (i : Instr) (s t : State) : Prop where
  frame : UnchangedBut (writtenParts i) s t
  canonical : Memory.wf s.dflt s.mem = true → Memory.wf t.dflt t.mem = true
  regs : ∀ r, writesReg i r = false → t.getV r = s.getV r
  pc : PcAfter i s t.pc

section
variable {ps : List Part} {s t : State}

theorem UnchangedBut.advance (h : UnchangedBut ps s t) (hp : .pc ∈ ps) (k : Word) : UnchangedBut ps s (t.advance k) :=
  { h with pc := fun hn => absurd hp hn }

theorem State.unchangedBut_writeBytes (hp : .mem ∈ ps) (as : List Nat) (bs : List Byte) :
    UnchangedBut ps s (s.writeBytes as bs) := by
  rw [State.writeBytes_eq]
  constructor
  case mem => exact fun hn => absurd hp hn
  case wait => exact fun _ => ⟨rfl, rfl⟩
  all_goals intros; rfl

theorem State.unchangedBut_setRegsFrom (hp : .v ∈ ps) (k : Nat) (bs : List Byte) :
    UnchangedBut ps s (State.setRegsFrom k bs s) := by
  rw [State.setRegsFrom_eq]
  constructor
  case v => exact fun hn => absurd hp hn
  case wait => exact fun _ => ⟨rfl, rfl⟩
  all_goals intros; rfl

end

/-- A skip goes 2 or 4 on and does nothing else. -/
theorem effect_skipIf {i : Instr} {s : State} (c : Bool) (hw : writtenParts i = [.pc])
    (hpc : ∀ w, PcAfter i s w ↔ w = s.pc + 2 ∨ w = s.pc + 4) : Effect i s (s.skipIf c) := by
  rw [State.skipIf_eq]
  refine ⟨?_, id, fun _ _ => rfl, (hpc _).mpr (by cases c <;> simp)⟩
  constructor <;> simp [hw]

/-- Bytes written at I keep memory canonical, and nothing else changes but PC. -/
theorem effect_writeBytes {i : Instr} {s : State} (n : Nat) (bs : List Byte) (hw : writtenParts i = [.pc, .mem])
    (hpc : ∀ w, PcAfter i s w ↔ w = s.pc + 2) : Effect i s ((s.writeBytes (s.addrsAtI n) bs).advance 2) := by
  have hf : UnchangedBut (writtenParts i) s (s.writeBytes (s.addrsAtI n) bs) :=
    State.unchangedBut_writeBytes (by simp [hw]) _ _
  refine ⟨hf.advance (by simp [hw]) 2, fun h => State.wf_writeBytes bs h fun a => lt_of_mem_range_mod, fun r _ => ?_, ?_⟩
  · exact hf.v (by simp [hw]) r
  · exact (hpc _).mpr (by rw [State.advance_pc, State.writeBytes_eq])

/-- An instruction faults and changes nothing else, or it has its effect. -/
theorem exec_effect (s : State) : ∀ i t, exec i s = .next t →
    (∃ c info, Raises i s c info ∧ t = s.recordFault c info) ∨ Effect i s t := by
  refine exec_elim s ?fault ?call ?ret ?drw ?ldB ?dumpRegs ?loadRegs ?skp ?sknp ?plain
  case fault => exact fun i c info hr => .inl ⟨c, info, hr, rfl⟩
  case ldB => exact fun x _ => .inr (effect_writeBytes _ _ rfl fun _ => .rfl)
  case dumpRegs => exact fun x _ => .inr (effect_writeBytes _ _ rfl fun _ => .rfl)
  case skp => exact fun x _ => .inr (effect_skipIf _ rfl fun _ => .rfl)
  case sknp => exact fun x _ => .inr (effect_skipIf _ rfl fun _ => .rfl)
  case loadRegs =>
    intro x _
    have hf : UnchangedBut (writtenParts (.loadRegs x)) s (State.setRegsFrom 0 (s.rowsAtI (x.toNat + 1)) s) :=
      State.unchangedBut_setRegsFrom (by simp [writtenParts]) _ _
    refine .inr ⟨hf.advance (by simp [writtenParts]) 2, fun h => ?_, fun r hr => ?_, ?_⟩
    · rw [State.setRegsFrom_eq]; exact h
    · have hlt : ¬ r.toNat < x.toNat + 1 := by simpa [writesReg, Nat.lt_succ_iff] using hr
      rw [State.getV_advance, State.getV_setRegsFrom s (by simpa using x.isLt), dif_neg (by simpa using hlt)]
    · rw [State.setRegsFrom_eq]; rfl
  case call =>
    exact fun nnn h => .inr ⟨by constructor <;> simp [writtenParts], id, fun _ _ => rfl, rfl⟩
  case ret =>
    exact fun h => .inr ⟨by constructor <;> simp [writtenParts], id, fun _ _ => rfl, rfl⟩
  case drw =>
    exact fun x y n _ => .inr ⟨by constructor <;> simp [writtenParts], id, by simp +contextual [writesReg], rfl⟩
  case plain =>
    intro i t h _ hcall hret hdrw hchk
    right
    cases i
    case call | ret | drw | ldB | dumpRegs | loadRegs | skp | sknp => simp at hcall hret hdrw hchk
    all_goals cases h
    case seImm | sneImm | seReg | sneReg => exact effect_skipIf _ rfl fun _ => .rfl
    case unknown => cases hd : s.cfg.diagUnknown <;> exact ⟨by constructor <;> simp [writtenParts], id, fun _ _ => rfl, rfl⟩
    case addReg | subReg | subnReg | shr | shl =>
      exact ⟨by constructor <;> simp [writtenParts, State.setResultAndFlag], id, by simp +contextual [writesReg], rfl⟩
    all_goals exact ⟨by constructor <;> simp [writtenParts], id, by simp +contextual [writesReg], rfl⟩

/-- Where the table gives a fault, the instruction takes it (spec/60_exceptions.md R241, R242). -/
theorem exec_of_raises {i : Instr} {s : State} {c : FaultCause} {info : Nat} (h : Raises i s c info) :
    exec i s = .next (s.recordFault c info) := by
  cases i
  case call =>
    obtain ⟨rfl, hsp, rfl⟩ := h
    exact dif_neg (by omega)
  case ret =>
    obtain ⟨rfl, hsp, rfl⟩ := h
    exact if_pos hsp
  case drw | loadRegs | ldB | dumpRegs =>
    obtain ⟨rfl, hlow⟩ := h
    exact withRange_of_lowest hlow _ _
  case skp | sknp =>
    obtain ⟨rfl, hk, rfl⟩ := h
    exact if_pos hk
  all_goals exact h.elim

/-- The next state where the table gives a fault. -/
theorem eq_recordFault_of_raises {i : Instr} {s t : State} {c : FaultCause} {info : Nat} (hr : Raises i s c info)
    (h : exec i s = .next t) : t = s.recordFault c info :=
  (Host.Outcome.next.inj ((exec_of_raises hr).symm.trans h)).symm

/-- Settles O19: a fault writes no register, and otherwise this is the effect's clause on registers. -/
theorem registersWrittenOnlyByDestination : Obligations.RegistersWrittenOnlyByDestination := by
  unfold Obligations.RegistersWrittenOnlyByDestination
  intro i s t r h hr
  obtain ⟨c, info, -, rfl⟩ | he := exec_effect s i t h
  · rfl
  · exact he.regs r hr

/-- Settles O20: the writers of each part are the instructions its clause excludes. -/
theorem indexMemoryDisplayKeysWriters : Obligations.IndexMemoryDisplayKeysWriters := by
  unfold Obligations.IndexMemoryDisplayKeysWriters
  intro i s t h
  obtain ⟨c, info, -, rfl⟩ | he := exec_effect s i t h
  · simp
  · refine ⟨fun hldI hx => he.frame.i fun hp => ?_, fun hx => he.frame.mem fun hp => ?_, fun hcls hdrw =>
      ⟨he.frame.draw fun hp => ?_, he.frame.disp fun hp => ?_⟩, he.frame.key key_notMem_writtenParts⟩
    · obtain ⟨nnn, rfl⟩ | ⟨x, rfl | rfl⟩ := writers_of_i hp
      exacts [hldI nnn rfl, (hx x).1 rfl, (hx x).2 rfl]
    · obtain ⟨x, rfl | rfl⟩ := writers_of_mem hp
      exacts [(hx x).1 rfl, (hx x).2 rfl]
    · obtain rfl | ⟨x, y, n, rfl⟩ := writers_of_draw hp
      exacts [hcls rfl, hdrw x y n rfl]
    · obtain rfl | ⟨x, y, n, rfl⟩ := writers_of_disp hp
      exacts [hcls rfl, hdrw x y n rfl]

/-- Settles O21: the stack and SP are among the parts of CALL and RET only, and the table gives the two faults. -/
theorem stackTouchedOnlyByCallAndReturn : Obligations.StackTouchedOnlyByCallAndReturn := by
  unfold Obligations.StackTouchedOnlyByCallAndReturn
  intro i s t h
  refine ⟨Nat.le_of_lt_succ t.sp.isLt, fun hcall hret => ?_, ?_, ?_⟩
  · obtain ⟨c, info, -, rfl⟩ | he := exec_effect s i t h
    · exact ⟨rfl, rfl⟩
    · refine ⟨he.frame.sp fun hp => ?_, Vector.ext (he.frame.stack fun hp => ?_)⟩
      · obtain rfl | ⟨nnn, rfl⟩ := writers_of_sp hp
        exacts [hret rfl, hcall nnn rfl]
      · obtain ⟨nnn, rfl⟩ := writers_of_stack hp
        exact hcall nnn rfl
  · rintro ⟨nnn, rfl⟩ hsp
    exact eq_recordFault_of_raises (i := .call nnn) ⟨rfl, hsp, rfl⟩ h
  · rintro rfl hsp
    exact eq_recordFault_of_raises (i := .ret) ⟨rfl, hsp, rfl⟩ h

theorem toNat_zext16 (nnn : Addr12) : (zext16 nnn).toNat = nnn.toNat := by
  simp only [zext16, BitVec.toNat_setWidth]; omega

theorem toNat_zext16_add_zextByte (nnn : Addr12) (b : Byte) :
    (zext16 nnn + zextByte b).toNat = nnn.toNat + b.toNat := by
  simp only [zext16, zextByte, BitVec.toNat_add, BitVec.toNat_setWidth]; omega

/-- Settles O22: a fault leaves PC, and otherwise each clause is the effect's PC for the instructions it names. -/
theorem pcAdvancesPerOperation : Obligations.PcAdvancesPerOperation := by
  unfold Obligations.PcAdvancesPerOperation
  intro i s t h
  refine ⟨fun ⟨c, info, hr⟩ => by rw [eq_recordFault_of_raises hr h, State.recordFault_pc], fun hno => ?_⟩
  obtain ⟨c, info, hr, -⟩ | he := exec_effect s i t h
  · exact absurd hr (hno c info)
  have hpc := he.pc
  refine ⟨?jump, ?jumpV0, ?ret, ?wait, ?other⟩
  case jump => rintro nnn (rfl | rfl) <;> exact (congrArg BitVec.toNat hpc).trans (toNat_zext16 nnn)
  case jumpV0 => rintro nnn rfl; exact (congrArg BitVec.toNat hpc).trans (toNat_zext16_add_zextByte nnn _)
  case ret => rintro rfl; exact hpc
  case wait => rintro x rfl; exact hpc
  case other => intro hjump hret hwait; cases i <;> simp_all [PcAfter]

end Sys2Proof.Machine
end

section
/-! PROOFS. Rules about whole steps, host calls included: what a step may do to the invariant, to the timers and to a
wait, and what observe answers. From these, O13, O23, O47 and O58. -/

namespace Sys2Proof.Machine

/-- A step is an execute step, scheduled or not, or another host call. -/
theorem step_execute_or_call {s t : State} (h : step s = .next t) :
    ((s.schedule = [] ∨ s.schedule.head? = some .execute) ∧ execute (s.setSchedule s.schedule.tail) = .next t) ∨
      ∃ c rest, c ≠ .execute ∧ s.schedule = c :: rest ∧ hostCall c (s.setSchedule rest) = .next t := by
  obtain ⟨hnil, e⟩ | ⟨c, rest, hcons, e⟩ := step_cases s
  · have hs : s.setSchedule s.schedule.tail = s := by rw [hnil, List.tail_nil, ← hnil]; rfl
    exact .inl ⟨.inl hnil, by rw [hs, ← e, h]⟩
  · by_cases hc : c = .execute
    · subst hc
      exact .inl ⟨.inr (by rw [hcons]; rfl), by rw [hcons, List.tail_cons, ← h, e]; rfl⟩
    · exact .inr ⟨c, rest, hc, hcons, by rw [← e, h]⟩

theorem State.setKey_eq (s : State) (k : Nibble) (pressed : Bool) : s.setKey k pressed =
    if pressed = true ∧ s.susp = true then (s.setKeyFlag k pressed).resolveWait k else s.setKeyFlag k pressed := by
  simp [State.setKey]

theorem State.unchangedBut_load (s : State) (bytes : List Byte) : UnchangedBut [.mem] s (s.load bytes) :=
  State.unchangedBut_writeBytes (by simp) _ _

section
variable {s t : State}

/-! ### The invariant -/

theorem FaultRecord.Fits.congr {r : FaultRecord} (h : r.Fits s) (hsp : t.sp = s.sp) (hi : t.i = s.i) (hpc : t.pc = s.pc)
    (hcfg : t.cfg = s.cfg) : r.Fits t := by
  unfold FaultRecord.Fits FetchRaises at *
  rwa [hsp, hi, hpc, hcfg]

/-- The invariant is about memory, FAULT, SUSP, PC, SP, I and the configuration only. -/
theorem State.Inv.congr (h : s.Inv) (hmem : Memory.wf t.dflt t.mem = true) (hfault : t.fault = s.fault)
    (hsusp : t.susp = s.susp) (hpc : t.pc = s.pc) (hsp : t.sp = s.sp) (hi : t.i = s.i) (hcfg : t.cfg = s.cfg) : t.Inv := by
  refine ⟨hmem, fun r hr => ?_⟩
  obtain ⟨hsus, hrpc, hfit⟩ := h.2 r (hfault ▸ hr)
  exact ⟨hsusp.trans hsus, hrpc.trans hpc.symm, hfit.congr hsp hi hpc hcfg⟩

theorem State.Inv.of_fault_none (hmem : Memory.wf t.dflt t.mem = true) (hfault : t.fault = none) : t.Inv :=
  ⟨hmem, fun r hr => by simp [hfault] at hr⟩

theorem State.Inv.recordFault (h : s.Inv) (hsusp : s.susp = false) {c : FaultCause} {info : Nat}
    (hfit : FaultRecord.Fits ⟨c, s.pc, info⟩ s) : (s.recordFault c info).Inv := by
  refine ⟨h.1, fun r hr => ?_⟩
  cases hr
  exact ⟨hsusp, rfl, hfit.congr rfl rfl rfl rfl⟩

/-- An address of at most 16 from I up lies in the range the invariant allows. -/
theorem LowestOutOfRange.bounds {n a : Nat} (h : LowestOutOfRange s n a) (hn : n ≤ 16) :
    s.cfg.oobPolicy = .fault ∧ 4096 ≤ a ∧ s.i.toNat ≤ a ∧ a ≤ s.i.toNat + 15 := by
  obtain ⟨hp, ha, ⟨k, hk, rfl⟩, -⟩ := h
  exact ⟨hp, ha, by omega, by omega⟩

/-- A record the fault table gives fits the state it is raised in. -/
theorem Raises.fits {i : Instr} {c : FaultCause} {info : Nat} (h : Raises i s c info) (w : Word) :
    FaultRecord.Fits ⟨c, w, info⟩ s := by
  cases i
  case call | ret => obtain ⟨rfl, hsp, rfl⟩ := h; exact ⟨hsp, rfl⟩
  case drw x y n => obtain ⟨rfl, hlow⟩ := h; exact LowestOutOfRange.bounds hlow (by omega)
  case loadRegs x | dumpRegs x => obtain ⟨rfl, hlow⟩ := h; exact LowestOutOfRange.bounds hlow (by omega)
  case ldB x => obtain ⟨rfl, hlow⟩ := h; exact LowestOutOfRange.bounds hlow (by omega)
  case skp x | sknp x => obtain ⟨rfl, hk, rfl⟩ := h; exact ⟨hk, Nat.le_of_lt_succ (s.getV x).isLt⟩
  all_goals exact h.elim

/-- A fetch that fails is the fetch's row of the fault table. -/
theorem fetchRaises_of_error {a : Nat} (h : s.fetchWord = .error a) : FetchRaises s a := by
  obtain ⟨a0, a1, -, -, e⟩ | ⟨hn, e⟩ | ⟨a0, h0, hn, e⟩ := s.fetchWord_cases <;> rw [e] at h <;> cases h
  · obtain ⟨hle, hp⟩ := resolve_eq_none.mp hn
    exact ⟨hp, .inl ⟨hle, rfl⟩⟩
  · obtain ⟨hle, hp⟩ := resolve_eq_none.mp hn
    have hlt : s.pc.toNat < memSize := by simpa [hp] using (resolve_eq_some.mp h0).1
    unfold memSize at hle hlt
    exact ⟨hp, .inr ⟨by omega, by omega⟩⟩

theorem State.Inv.after_exec {i : Instr} (h : s.Inv) (hfault : s.fault = none) (hsusp : s.susp = false)
    (ht : exec i s = .next t) : t.Inv := by
  obtain ⟨c, info, hr, rfl⟩ | he := exec_effect s i t ht
  · exact h.recordFault hsusp (hr.fits _)
  · exact .of_fault_none (he.canonical h.1) ((he.frame.fault fault_notMem_writtenParts).trans hfault)

theorem State.Inv.after_execute (h : s.Inv) (ht : execute s = .next t) : t.Inv := by
  obtain ⟨-, e⟩ | ⟨hfault, hsusp, ⟨a, hw, e⟩ | ⟨w, -, e⟩⟩ := execute_cases s <;> rw [e] at ht
  · cases ht; exact h
  · cases ht; exact h.recordFault hsusp (fetchRaises_of_error hw)
  · exact h.after_exec hfault hsusp ht

theorem State.Inv.setKey (h : s.Inv) (k : Nibble) (pressed : Bool) : (s.setKey k pressed).Inv := by
  rw [State.setKey_eq]
  split
  next hwait =>
    refine .of_fault_none h.1 (Option.eq_none_iff_forall_not_mem.mpr fun r hr => ?_)
    exact absurd hwait.2 (by simp [(h.2 r hr).1])
  next => exact h.congr h.1 rfl rfl rfl rfl rfl rfl

/-- `load` writes below 4096 and memory only. -/
theorem State.Inv.load (h : s.Inv) {bytes : List Byte} (hl : bytes.length ≤ progMax) : (s.load bytes).Inv := by
  have hmem : ∀ a ∈ List.range' progBase bytes.length, a < memSize := by
    intro a ha
    simp only [List.mem_range'_1, progBase, progMax, memSize] at *
    omega
  have hf := s.unchangedBut_load bytes
  exact h.congr (State.wf_writeBytes bytes h.1 hmem) (hf.fault (by simp)) (hf.wait (by simp)).1 (hf.pc (by simp))
    (hf.sp (by simp)) (hf.i (by simp)) hf.cfg

theorem State.Inv.after_hostCall {c : HostCall} (h : s.Inv) (ht : hostCall c s = .next t) : t.Inv := by
  cases c
  case execute => exact h.after_execute ht
  case reset => cases ht; exact .of_fault_none rfl rfl
  case tick | resetKeys | clearDrawFlag | observe => cases ht; exact h.congr h.1 rfl rfl rfl rfl rfl rfl
  case setKey k pressed =>
    cases ht
    split
    · exact h.congr h.1 rfl rfl rfl rfl rfl rfl
    · exact h.setKey _ pressed
  case load bytes =>
    cases ht
    split
    · exact h.congr h.1 rfl rfl rfl rfl rfl rfl
    · exact h.load (by omega)

/-! ### The timers -/

theorem toNat_tickDown (b : Byte) : (tickDown b).toNat = b.toNat - 1 := by
  simp only [tickDown, BitVec.toNat_ofNat]; omega

/-- Only FX15 raises DT, only FX18 raises ST. -/
theorem exec_timers {i : Instr} (ht : exec i s = .next t) :
    (t.dt = s.dt ∨ ∃ x, i = .ldDtVx x) ∧ (t.st = s.st ∨ ∃ x, i = .ldStVx x) := by
  obtain ⟨c, info, -, rfl⟩ | he := exec_effect s i t ht
  · exact ⟨.inl rfl, .inl rfl⟩
  constructor
  · by_cases hp : .dt ∈ writtenParts i
    · exact .inr (writers_of_dt hp)
    · exact .inl (he.frame.dt hp)
  · by_cases hp : .st ∈ writtenParts i
    · exact .inr (writers_of_st hp)
    · exact .inl (he.frame.st hp)

/-- No host call but execute raises a timer. -/
theorem hostCall_timers_le {c : HostCall} (hc : c ≠ .execute) (ht : hostCall c s = .next t) :
    t.dt.toNat ≤ s.dt.toNat ∧ t.st.toNat ≤ s.st.toNat := by
  cases c
  case execute => exact absurd rfl hc
  case tick => cases ht; simp [State.tick, toNat_tickDown]
  case reset => cases ht; simp [State.resetCore, State.reset]
  case resetKeys | clearDrawFlag | observe => cases ht; exact ⟨le_rfl, le_rfl⟩
  case setKey k pressed =>
    cases ht
    rw [State.setKey_eq]
    split_ifs <;> exact ⟨le_rfl, le_rfl⟩
  case load bytes =>
    cases ht
    split
    · exact ⟨le_rfl, le_rfl⟩
    · have hf := s.unchangedBut_load bytes
      simp [hf.dt, hf.st]

/-! ### The wait -/

/-- A host call ends a wait only as a press of one of the 16 keys or as reset. -/
theorem hostCall_ends_wait {c : HostCall} (hs : s.susp = true) (ht : hostCall c s = .next t) (hsusp : t.susp = false) :
    c = .reset ∨ ∃ k ≤ 15, c = .setKey k true := by
  cases c
  case execute =>
    obtain ⟨-, e⟩ | ⟨-, hrun, -⟩ := execute_cases s
    · cases e.symm.trans ht; simp [hs] at hsusp
    · simp [hs] at hrun
  case reset => exact .inl rfl
  case tick | resetKeys | clearDrawFlag | observe => cases ht; exact absurd (hs.symm.trans hsusp) (by simp)
  case setKey k pressed =>
    cases ht
    split at hsusp
    · simp [hs] at hsusp
    · cases pressed
      · simp [State.setKey_eq, hs] at hsusp
      · exact .inr ⟨k, by omega, rfl⟩
  case load bytes =>
    cases ht
    split at hsusp
    · simp [hs] at hsusp
    · have hf := s.unchangedBut_load bytes
      simp [hf.wait, hs] at hsusp
end

/-- Settles O13: each host call keeps the invariant. -/
theorem stepKeepsInv : Obligations.StepKeepsInv := by
  unfold Obligations.StepKeepsInv
  intro s t h ht
  obtain ⟨-, e⟩ | ⟨c, rest, -, e⟩ := step_cases s <;> rw [e] at ht
  · exact h.after_execute ht
  · have hrest : (s.setSchedule rest).Inv := h.congr h.1 rfl rfl rfl rfl rfl rfl
    exact hrest.after_hostCall ht

/-- Settles O23: a step that raises a timer is an execute step that performs an instruction, and only FX15 and FX18 write
the timers. -/
theorem timersRiseOnlyWhenSet : Obligations.TimersRiseOnlyWhenSet := by
  unfold Obligations.TimersRiseOnlyWhenSet
  intro s t h hrise
  obtain ⟨hexec, h⟩ | ⟨c, rest, hc, -, h⟩ := step_execute_or_call h
  · obtain ⟨-, e⟩ | ⟨hfault, hsusp, ⟨a, -, e⟩ | ⟨w, hw, e⟩⟩ := execute_cases (s.setSchedule s.schedule.tail) <;>
      rw [e] at h
    · cases h; simp at hrise
    · cases h; simp at hrise
    · obtain ⟨hdt, hst⟩ := exec_timers h
      refine ⟨hexec, hfault, hsusp, w, hw, fun hlt => hdt.resolve_left ?_, fun hlt => hst.resolve_left ?_⟩
      · intro e; simp [e] at hlt
      · intro e; simp [e] at hlt
  · have hle := hostCall_timers_le hc h
    simp only [State.setSchedule_dt, State.setSchedule_st] at hle
    omega

/-- Settles O47: while suspended, execute changes nothing, and of the other host calls two kinds end the wait. -/
theorem onlyKeyPressOrResetEndsWait : Obligations.OnlyKeyPressOrResetEndsWait := by
  unfold Obligations.OnlyKeyPressOrResetEndsWait
  intro s t hs h hsusp
  obtain ⟨-, e⟩ | ⟨c, rest, hcons, e⟩ := step_cases s <;> rw [e] at h
  · obtain hc | ⟨k, -, hc⟩ := hostCall_ends_wait (c := .execute) hs h hsusp <;> cases hc
  · obtain rfl | ⟨k, hk, rfl⟩ := hostCall_ends_wait (s := s.setSchedule rest) hs h hsusp
    · exact ⟨rest, .inl hcons⟩
    · exact ⟨rest, .inr ⟨k, hk, hcons⟩⟩

/-- Settles O58: the answer is the state's observation. -/
theorem observeReturnsState : Obligations.ObserveReturnsState := by
  unfold Obligations.ObserveReturnsState
  intro s rest h
  refine ⟨s.observation, ?_, fun a ha => ?_, ?_, rfl, rfl, rfl, rfl, rfl, rfl, rfl, rfl, rfl, rfl, rfl, rfl, rfl⟩
  · unfold step; rw [h]; rfl
  · simp [State.observation]
  · simp [State.observation, memSize]

end Sys2Proof.Machine
end

section
/-! PROOFS. Memory and the step: the address rule, the fetch through it and what it reads after a register dump, and the
next state every instruction and every host call answers. From these, O7, O8, O12 and O15. -/

namespace Sys2Proof.Machine

/-! ### The address rule -/

/-- Settles O7: an address below 4096 is its own remainder, and one from 4096 up is answered by the policy alone. -/
theorem addressRule : Obligations.AddressRule := by
  unfold Obligations.AddressRule
  intro p a
  refine ⟨fun hlt => ?below, fun hle => ⟨?wrap, ?fault⟩⟩
  case below => exact resolve_eq_some.mpr ⟨.inl hlt, (Nat.mod_eq_of_lt hlt).symm⟩
  case wrap => exact resolve_eq_some.mpr ⟨.inr rfl, rfl⟩
  case fault => exact resolve_eq_none.mpr ⟨hle, rfl⟩

/-! ### The fetch -/

section
variable {s : State}

/-- A fetch whose two addresses resolve reads the word there, the first byte high (spec/20_memory.md R65). -/
theorem State.fetchWord_of_resolve {a0 a1 : Nat} (h0 : resolve s.cfg.oobPolicy s.pc.toNat = some a0)
    (h1 : resolve s.cfg.oobPolicy (s.pc.toNat + 1) = some a1) :
    s.fetchWord = .ok (wordOfBytes (s.readByte a0) (s.readByte a1)) := by
  simp only [State.fetchWord, h0, h1]

/-- The same for addresses that are only known to be accessible. -/
theorem State.fetchWord_of_accessible (h : Accessible s s.pc.toNat 2) :
    s.fetchWord = .ok (wordOfBytes (s.readByte (s.pc.toNat % memSize)) (s.readByte ((s.pc.toNat + 1) % memSize))) := by
  obtain ⟨a0, h0⟩ := Option.ne_none_iff_exists'.mp (h 0 (by decide))
  obtain ⟨a1, h1⟩ := Option.ne_none_iff_exists'.mp (h 1 (by decide))
  rw [State.fetchWord_of_resolve h0 h1, (resolve_eq_some.mp h0).2, (resolve_eq_some.mp h1).2, Nat.add_zero]

/-- A running core performs the word it fetches (spec/30_encoding.md R90). -/
theorem execute_of_fetchWord {w : Word} (hfault : s.fault = none) (hsusp : s.susp = false) (hw : s.fetchWord = .ok w) :
    execute s = exec (decode w) s := by
  simp [execute, hfault, hsusp, hw]

theorem step_of_schedule_nil (h : s.schedule = []) : step s = execute s := by
  simp only [step, h]

end

theorem eq_wordOfBytes_of_toNat {w : Word} {hi lo : Byte} (h : w.toNat = hi.toNat * 256 + lo.toNat) :
    w = wordOfBytes hi lo :=
  BitVec.eq_of_toNat_eq (h.trans (toNat_wordOfBytes hi lo).symm)

/-- Settles O8: the word of the statement is the one the fetch reads. -/
theorem stepRunsDecodedInstruction : Obligations.StepRunsDecodedInstruction := by
  unfold Obligations.StepRunsDecodedInstruction
  intro s a0 a1 w hsched hfault hsusp h0 h1 hw
  have hfetch : s.fetchWord = .ok w := by rw [State.fetchWord_of_resolve h0 h1, eq_wordOfBytes_of_toNat hw]
  rw [step_of_schedule_nil hsched, execute_of_fetchWord hfault hsusp hfetch]

/-! ### The bytes of a register dump -/

/-- The registers up to `x` stored at I, before PC goes on (spec/42_index_memory.md R175). -/
def State.dumped (s : State) (x : Nibble) : State := s.writeBytes (s.addrsAtI (x.toNat + 1)) (s.regsUpTo x)

section
variable (s : State) (x : Nibble)

theorem exec_dumpRegs_of_accessible {s : State} {x : Nibble} (h : Accessible s s.i.toNat (x.toNat + 1)) :
    exec (.dumpRegs x) s = .next ((s.dumped x).advance 2) :=
  withRange_of_accessible h .write _

theorem State.unchangedBut_dumped : UnchangedBut [.mem] s (s.dumped x) :=
  State.unchangedBut_writeBytes (by simp) _ _

@[simp] theorem State.dumped_cfg : (s.dumped x).cfg = s.cfg := (s.unchangedBut_dumped x).cfg

/-- Each byte of a register dump reads as its register. -/
theorem State.readByte_dumped {k : Nat} (hk : k ≤ x.toNat) :
    (s.dumped x).readByte ((s.i.toNat + k) % memSize) = s.getV (BitVec.ofNat 4 k) := by
  have hn : x.toNat + 1 ≤ memSize := by unfold memSize; omega
  rw [State.dumped, State.readByte_writeBytes_addrsAtI s hn (s.length_regsUpTo x) (Nat.lt_succ_of_le hk),
    State.getElem_regsUpTo]

end

/-- Settles O15: the two addresses of the fetch are the first two of the dump. -/
theorem storedBytesAreFetched : Obligations.StoredBytesAreFetched := by
  unfold Obligations.StoredBytesAreFetched
  intro s t x hx hacc h
  have hx1 : 1 ≤ x.toNat := Nat.one_le_iff_ne_zero.mpr fun h0 => hx (BitVec.eq_of_toNat_eq h0)
  have hfst : (s.dumped x).readByte (s.i.toNat % memSize) = s.getV 0 := s.readByte_dumped x (Nat.zero_le _)
  have hsnd : (s.dumped x).readByte ((s.i.toNat + 1) % memSize) = s.getV 1 := s.readByte_dumped x hx1
  cases (exec_dumpRegs_of_accessible hacc).symm.trans h
  rw [State.fetchWord_of_accessible]
  · simp only [State.setPc_pc, State.readByte_setPc, State.readByte_advance, hfst, hsnd]
  · intro k hk
    simp only [State.setPc_pc, State.setPc_cfg, State.advance_cfg, State.dumped_cfg]
    exact hacc k (by omega)

/-! ### Every step answers -/

section
variable (s : State)

/-- A checked access answers a next state when the operation on the checked addresses does. -/
theorem withRange_answers (kind : AccessKind) (base n : Nat) {go : List Nat → Result}
    (hgo : ∀ as, ∃ t, go as = .next t) : ∃ t, withRange kind base n s go = .next t := by
  obtain ⟨-, e⟩ | ⟨j, -, -, -, e⟩ := withRange_cases s kind base n go <;> rw [e]
  · exact hgo _
  · exact ⟨_, rfl⟩

/-- A key skip's check answers a next state when the operation on the key does. -/
theorem withKey_answers (k : Byte) {go : Bool → Result} (hgo : ∀ down, ∃ t, go down = .next t) :
    ∃ t, withKey k s go = .next t := by
  obtain ⟨-, e⟩ | ⟨-, e⟩ := withKey_cases s k go <;> rw [e]
  · exact hgo _
  · exact ⟨_, rfl⟩

/-- No instruction stops the machine: the checks fault by a next state, and what is not checked completes. -/
theorem exec_answers (i : Instr) : ∃ t, exec i s = .next t := by
  cases i
  case call nnn => by_cases h : s.sp.val < 16 <;> simp [exec, execCall, raiseFault, h]
  case ret => by_cases h : s.sp.val = 0 <;> simp [exec, execRet, raiseFault, h]
  case drw | ldB | dumpRegs | loadRegs => exact withRange_answers s _ _ _ fun _ => ⟨_, rfl⟩
  case skp | sknp => exact withKey_answers s _ fun _ => ⟨_, rfl⟩
  all_goals exact ⟨_, rfl⟩

theorem execute_answers : ∃ t, execute s = .next t := by
  obtain ⟨-, e⟩ | ⟨-, -, ⟨a, -, e⟩ | ⟨w, -, e⟩⟩ := execute_cases s <;> rw [e]
  · exact ⟨_, rfl⟩
  · exact ⟨_, rfl⟩
  · exact exec_answers s (decode w)

theorem hostCall_answers (c : HostCall) : ∃ t, hostCall c s = .next t := by
  cases c
  case execute => exact execute_answers s
  all_goals exact ⟨_, rfl⟩

end

section
variable {s t : State}

theorem exec_cfg {i : Instr} (ht : exec i s = .next t) : t.cfg = s.cfg := by
  obtain ⟨c, info, -, rfl⟩ | he := exec_effect s i t ht
  · rfl
  · exact he.frame.cfg

theorem execute_cfg (ht : execute s = .next t) : t.cfg = s.cfg := by
  obtain ⟨-, e⟩ | ⟨-, -, ⟨a, -, e⟩ | ⟨w, -, e⟩⟩ := execute_cases s <;> rw [e] at ht
  · cases ht; rfl
  · cases ht; rfl
  · exact exec_cfg ht

/-- No host call changes the parameters, reset included (spec/10_state.md R43). -/
theorem hostCall_cfg {c : HostCall} (ht : hostCall c s = .next t) : t.cfg = s.cfg := by
  cases c
  case execute => exact execute_cfg ht
  case tick | reset | resetKeys | clearDrawFlag | observe => cases ht; rfl
  case setKey k pressed =>
    cases ht
    rw [State.setKey_eq]
    split_ifs <;> rfl
  case load bytes =>
    cases ht
    split
    · rfl
    · exact (s.unchangedBut_load bytes).cfg

end

/-- Settles O12: a step is `execute` or a host call on a state with the same parameters, and each of them answers. -/
theorem everyStepAnswersNext : Obligations.EveryStepAnswersNext := by
  unfold Obligations.EveryStepAnswersNext
  intro s
  obtain ⟨-, e⟩ | ⟨c, rest, -, e⟩ := step_cases s <;> rw [e]
  · obtain ⟨t, ht⟩ := execute_answers s
    exact ⟨t, ht, execute_cfg ht⟩
  · obtain ⟨t, ht⟩ := hostCall_answers (s.setSchedule rest) c
    exact ⟨t, ht, hostCall_cfg (s := s.setSchedule rest) ht⟩

end Sys2Proof.Machine
end

section
/-! PROOFS. The decoder against the encoder and the opcode table: what a word of each class decodes to, that the encoder
gives every word back, and that the words decoded to `UNKNOWN` are those no row of the table matches. From these, O1 to O6,
O10 and O49. -/

namespace Sys2Proof.Machine

section
variable {w : Word} {c : Nibble}

/-! ### Words from their fields -/

theorem formatNNN_of_op (h : opField w = c) : formatNNN c (nnnField w) = w := by
  rw [← h, formatNNN_fields]

theorem formatXNN_of_op (h : opField w = c) : formatXNN c (xField w) (nnField w) = w := by
  rw [← h, formatXNN_fields]

theorem formatXYN_of_op (h : opField w = c) : formatXYN c (xField w) (yField w) (nField w) = w := by
  rw [← h, formatXYN_fields]

/-- The same where the low byte is known as the number that selects the operation (R97, R98). -/
theorem formatXNN_of_op_nn {nn : Byte} (h : opField w = c) (hnn : (nnField w).toNat = nn.toNat) :
    formatXNN c (xField w) nn = w := by
  rw [← BitVec.eq_of_toNat_eq hnn, formatXNN_of_op h]

/-- The same where the low nibble is known as the number that selects the operation (R96). -/
theorem formatXYN_of_op_n {n : Nibble} (h : opField w = c) (hn : (nField w).toNat = n.toNat) :
    formatXYN c (xField w) (yField w) n = w := by
  rw [← BitVec.eq_of_toNat_eq hn, formatXYN_of_op h]

/-! ### The first level -/

/-- The four classes with a second level, and the rest. -/
theorem opField_cases (w : Word) :
    opField w = 0x0 ∨ opField w = 0x8 ∨ opField w = 0xE ∨ opField w = 0xF ∨
      opField w ∈ [0x1, 0x2, 0x3, 0x4, 0x5, 0x6, 0x7] ∨ opField w ∈ [0x9, 0xA, 0xB, 0xC, 0xD] := by
  generalize opField w = c
  revert c
  decide

theorem decode_of_op0 (h : opField w = 0x0) : decode w = decodeClass0 w := by simp [decode, h]

theorem decode_of_op5 (h : opField w = 0x5) : decode w = .seReg (xField w) (yField w) (nField w) := by simp [decode, h]

theorem decode_of_op8 (h : opField w = 0x8) : decode w = decodeClass8 w := by simp [decode, h]

theorem decode_of_op9 (h : opField w = 0x9) : decode w = .sneReg (xField w) (yField w) (nField w) := by simp [decode, h]

theorem decode_of_opE (h : opField w = 0xE) : decode w = decodeClassE w := by simp [decode, h]

theorem decode_of_opF (h : opField w = 0xF) : decode w = decodeClassF w := by simp [decode, h]

/-- Outside the four classes the top nibble alone selects an operation, which keeps all the other bits as operands. -/
theorem decode_firstLevel
    (h : opField w ∈ [0x1, 0x2, 0x3, 0x4, 0x5, 0x6, 0x7] ∨ opField w ∈ [0x9, 0xA, 0xB, 0xC, 0xD]) :
    encode (decode w) = w ∧ decode w ≠ .unknown w := by
  simp only [List.mem_cons, List.not_mem_nil, or_false, or_assoc] at h
  rcases h with h | h | h | h | h | h | h | h | h | h | h | h <;>
    simp [decode, encode, h, formatNNN_of_op, formatXNN_of_op, formatXYN_of_op]

/-! ### The second level -/

theorem decodeClass0_eq_unknown_iff : decodeClass0 w = .unknown w ↔ w ∉ [0x00E0, 0x00EE] := by
  unfold decodeClass0
  split_ifs <;> simp_all

theorem decodeClass8_eq_unknown_iff :
    decodeClass8 w = .unknown w ↔ nField w ∉ [0x0, 0x1, 0x2, 0x3, 0x4, 0x5, 0x6, 0x7, 0xE] := by
  unfold decodeClass8
  split <;> simp_all [← BitVec.toNat_inj]

theorem decodeClassE_eq_unknown_iff : decodeClassE w = .unknown w ↔ nnField w ∉ [0x9E, 0xA1] := by
  unfold decodeClassE
  split <;> simp_all [← BitVec.toNat_inj]

theorem decodeClassF_eq_unknown_iff :
    decodeClassF w = .unknown w ↔ nnField w ∉ [0x07, 0x0A, 0x15, 0x18, 0x1E, 0x29, 0x33, 0x55, 0x65] := by
  unfold decodeClassF
  split <;> simp_all [← BitVec.toNat_inj]

theorem encode_decodeClass0 : encode (decodeClass0 w) = w := by
  unfold decodeClass0
  split_ifs <;> simp_all [encode]

theorem encode_decodeClass8 (h : opField w = 0x8) : encode (decodeClass8 w) = w := by
  unfold decodeClass8
  split
  case h_10 => rfl
  all_goals exact formatXYN_of_op_n h ‹_›

theorem encode_decodeClassE (h : opField w = 0xE) : encode (decodeClassE w) = w := by
  unfold decodeClassE
  split
  case h_3 => rfl
  all_goals exact formatXNN_of_op_nn h ‹_›

theorem encode_decodeClassF (h : opField w = 0xF) : encode (decodeClassF w) = w := by
  unfold decodeClassF
  split
  case h_10 => rfl
  all_goals exact formatXNN_of_op_nn h ‹_›

end

/-- No bit of a word is lost: the decoder keeps what does not select the operation (R93, log 10). -/
theorem encode_decode (w : Word) : encode (decode w) = w := by
  obtain h | h | h | h | h := opField_cases w
  · rw [decode_of_op0 h, encode_decodeClass0]
  · rw [decode_of_op8 h, encode_decodeClass8 h]
  · rw [decode_of_opE h, encode_decodeClassE h]
  · rw [decode_of_opF h, encode_decodeClassF h]
  · exact (decode_firstLevel h).1

/-! ### The opcode table -/

section
variable (w : Word)

/-- Rows of one class matched on all 16 bits. -/
theorem any_rowMatches_word {c : Nibble} {ws : List Word} (hws : ∀ b ∈ ws, opField b = c) :
    (ws.map (OpcodeRow.mk · 0xFFFF)).any (rowMatches w) = true ↔ opField w = c ∧ w ∈ ws := by
  have allBits (b : Word) : rowMatches w ⟨b, 0xFFFF⟩ = true ↔ w = b := by
    rw [rowMatches, beq_iff_eq]
    exact iff_of_eq (congrArg (· = b) BitVec.and_allOnes)
  simp only [List.any_map, List.any_eq_true, Function.comp_apply, allBits, exists_eq_right']
  exact (and_iff_right_of_imp (hws w)).symm

theorem any_rowMatches_op (cs : List Nibble) :
    (cs.map fun c => OpcodeRow.mk (formatNNN c 0) 0xF000).any (rowMatches w) = true ↔ opField w ∈ cs := by
  simp only [List.any_map, List.any_eq_true, Function.comp_apply, rowMatches_op, exists_eq_right']

theorem any_rowMatches_op_n (c : Nibble) (ns : List Nibble) :
    (ns.map fun n => OpcodeRow.mk (formatXYN c 0 0 n) 0xF00F).any (rowMatches w) = true ↔
      opField w = c ∧ nField w ∈ ns := by
  simp only [List.any_map, List.any_eq_true, Function.comp_apply, rowMatches_op_n, ← and_assoc, exists_eq_right']
  exact and_comm

theorem any_rowMatches_op_nn (c : Nibble) (bs : List Byte) :
    (bs.map fun nn => OpcodeRow.mk (formatXNN c 0 nn) 0xF0FF).any (rowMatches w) = true ↔
      opField w = c ∧ nnField w ∈ bs := by
  simp only [List.any_map, List.any_eq_true, Function.comp_apply, rowMatches_op_nn, ← and_assoc, exists_eq_right']
  exact and_comm

/-- The table by what its rows ask for: all 16 bits, `op`, `op` and `n`, `op` and `nn`. -/
theorem opcodeRows_eq : opcodeRows =
    [0x00E0, 0x00EE].map (OpcodeRow.mk · 0xFFFF) ++
    [0x1, 0x2, 0x3, 0x4, 0x5, 0x6, 0x7].map (fun c => ⟨formatNNN c 0, 0xF000⟩) ++
    [0x0, 0x1, 0x2, 0x3, 0x4, 0x5, 0x6, 0x7, 0xE].map (fun n => ⟨formatXYN 0x8 0 0 n, 0xF00F⟩) ++
    [0x9, 0xA, 0xB, 0xC, 0xD].map (fun c => ⟨formatNNN c 0, 0xF000⟩) ++
    [0x9E, 0xA1].map (fun nn => ⟨formatXNN 0xE 0 nn, 0xF0FF⟩) ++
    [0x07, 0x0A, 0x15, 0x18, 0x1E, 0x29, 0x33, 0x55, 0x65].map (fun nn => ⟨formatXNN 0xF 0 nn, 0xF0FF⟩) := by
  decide

/-- Which words no row of the table matches. -/
theorem isUnknownWord_iff : isUnknownWord w = true ↔
    ¬ (opField w = 0x0 ∧ w ∈ [0x00E0, 0x00EE]) ∧ opField w ∉ [0x1, 0x2, 0x3, 0x4, 0x5, 0x6, 0x7] ∧
    ¬ (opField w = 0x8 ∧ nField w ∈ [0x0, 0x1, 0x2, 0x3, 0x4, 0x5, 0x6, 0x7, 0xE]) ∧
    opField w ∉ [0x9, 0xA, 0xB, 0xC, 0xD] ∧ ¬ (opField w = 0xE ∧ nnField w ∈ [0x9E, 0xA1]) ∧
    ¬ (opField w = 0xF ∧ nnField w ∈ [0x07, 0x0A, 0x15, 0x18, 0x1E, 0x29, 0x33, 0x55, 0x65]) := by
  have hfixed : ∀ b ∈ [0x00E0, 0x00EE], opField b = 0x0 := by simp [opField]
  rw [isUnknownWord, Bool.not_eq_true', ← Bool.not_eq_true, opcodeRows_eq]
  simp only [List.any_append, Bool.or_eq_true, any_rowMatches_word w hfixed, any_rowMatches_op, any_rowMatches_op_n,
    any_rowMatches_op_nn, not_or, and_assoc]

/-- The decoder and the table agree on `UNKNOWN` (R94, R99). -/
theorem decode_eq_unknown_iff : decode w = .unknown w ↔ isUnknownWord w = true := by
  rw [isUnknownWord_iff]
  obtain h | h | h | h | h := opField_cases w
  · rw [decode_of_op0 h, decodeClass0_eq_unknown_iff]; simp [h]
  · rw [decode_of_op8 h, decodeClass8_eq_unknown_iff]; simp [h]
  · rw [decode_of_opE h, decodeClassE_eq_unknown_iff]; simp [h]
  · rw [decode_of_opF h, decodeClassF_eq_unknown_iff]; simp [h]
  · refine iff_of_false (decode_firstLevel h).2 ?_
    rintro ⟨-, hlow, -, hhigh, -, -⟩
    exact h.elim hlow hhigh

end

/-- A decode failure carries the word itself. -/
theorem eq_of_decode_eq_unknown {w u : Word} (h : decode w = .unknown u) : u = w := by
  rw [← encode_decode w, h]; rfl

theorem wf_decode (w : Word) : (decode w).wf = true := by
  cases h : decode w
  case unknown u =>
    obtain rfl := eq_of_decode_eq_unknown h
    exact (decode_eq_unknown_iff u).mp h
  all_goals rfl

/-- Each operation's word is of its class, with its operands in their fields. -/
theorem decode_encode {i : Instr} (h : i.wf = true) : decode (encode i) = i := by
  cases i
  case unknown w => exact (decode_eq_unknown_iff w).mpr h
  case cls | ret => rfl
  case ldReg | orReg | andReg | xorReg | addReg | subReg | shr | subnReg | shl => simp [encode, decode, decodeClass8]
  case skp | sknp => simp [encode, decode, decodeClassE]
  case ldVxDt | ldVxK | ldDtVx | ldStVx | addI | ldF | ldB | dumpRegs | loadRegs => simp [encode, decode, decodeClassF]
  all_goals simp [encode, decode]

/-! ### The obligations -/

/-- Settles O2: the fields of the word the encoder builds are the operands; for the decode failure, the decoder and the
table agree on which words have no row. -/
theorem decodeAfterEncodeIsIdentity : Obligations.DecodeAfterEncodeIsIdentity := by
  unfold Obligations.DecodeAfterEncodeIsIdentity
  exact fun i h => decode_encode h

/-- Settles O3: class by class, the operands and the number that selects the operation are all the word's fields. -/
theorem encodeAfterDecodeIsIdentity : Obligations.EncodeAfterDecodeIsIdentity := by
  unfold Obligations.EncodeAfterDecodeIsIdentity
  exact fun w => ⟨encode_decode w, wf_decode w⟩

/-- Two rows that one word matches agree on the bits both masks keep. -/
theorem bits_and_mask_of_rowMatches {w : Word} {r r' : OpcodeRow} (h : rowMatches w r = true)
    (h' : rowMatches w r' = true) : r.bits &&& r'.mask = r'.bits &&& r.mask := by
  rw [rowMatches, beq_iff_eq] at h h'
  rw [← h, ← h', BitVec.and_assoc, BitVec.and_assoc, BitVec.and_comm r.mask]

theorem pairwise_opcodeRows : opcodeRows.Pairwise fun r r' => r.bits &&& r'.mask ≠ r'.bits &&& r.mask := by decide

/-- Settles O4: two rows that one word matches agree under both masks, which no two rows of the table do. -/
theorem opcodeTableDecidesDecodeFailure : Obligations.OpcodeTableDecidesDecodeFailure := by
  unfold Obligations.OpcodeTableDecidesDecodeFailure
  intro w
  constructor
  · have hdisjoint : (opcodeRows.filter (rowMatches w)).Pairwise fun _ _ => False :=
      (pairwise_opcodeRows.filter _).imp_of_mem fun hr hr' hne =>
        hne (bits_and_mask_of_rowMatches (List.of_mem_filter hr) (List.of_mem_filter hr'))
    match opcodeRows.filter (rowMatches w), hdisjoint with
    | [], _ => exact Nat.zero_le 1
    | [_], _ => exact le_rfl
    | _ :: _ :: _, hd => exact (List.rel_of_pairwise_cons hd List.mem_cons_self).elim
  · rw [decode_eq_unknown_iff, isUnknownWord, Bool.not_eq_true', List.filter_eq_nil_iff, List.any_eq_false]

/-- Settles O5: each class's own decoder, and the first level, which has no decode failure. -/
theorem secondLevelClassesDecode : Obligations.SecondLevelClassesDecode := by
  unfold Obligations.SecondLevelClassesDecode
  intro w
  refine ⟨fun h => ?class0, fun h => ?class8, fun h => ?classE, fun h => ?classF, fun h => ?firstLevel⟩
  case class0 => rw [decode_of_op0 h]; rfl
  case class8 =>
    have hcompl : ∀ n : Nibble, n ∉ [0x0, 0x1, 0x2, 0x3, 0x4, 0x5, 0x6, 0x7, 0xE] ↔
        n ∈ [0x8, 0x9, 0xA, 0xB, 0xC, 0xD, 0xF] := by decide
    rw [decode_of_op8 h, decodeClass8_eq_unknown_iff, hcompl]
  case classE => rw [decode_of_opE h, decodeClassE_eq_unknown_iff]
  case classF => rw [decode_of_opF h, decodeClassF_eq_unknown_iff]
  case firstLevel =>
    obtain e | e | e | e | e := opField_cases w
    case inr.inr.inr.inr => exact (decode_firstLevel e).2
    all_goals simp [e] at h

/-- Settles O1: the decoder evaluated on the thirteen words. -/
theorem sampleWordsDecode : Obligations.SampleWordsDecode := by
  unfold Obligations.SampleWordsDecode
  decide

/-- Settles O6: the meaning of either instruction does not take `n`. -/
theorem lowNibbleOfClasses5And9Ignored : Obligations.LowNibbleOfClasses5And9Ignored := by
  unfold Obligations.LowNibbleOfClasses5And9Ignored
  intro w s
  constructor
  · intro h; rw [decode_of_op5 h]; rfl
  · intro h; rw [decode_of_op9 h]; rfl

/-- A core that is faulted or suspended does not execute (R90). -/
theorem execute_of_blocked {s : State} (h : s.fault ≠ none ∨ s.susp = true) : execute s = .next s := by
  obtain ⟨-, e⟩ | ⟨hfault, hsusp, -⟩ := execute_cases s
  · exact e
  · simp [hfault, hsusp] at h

/-- Settles O10: the step is `execute`, and taking a call off the schedule unblocks nothing. -/
theorem blockedExecuteChangesNothing : Obligations.BlockedExecuteChangesNothing := by
  unfold Obligations.BlockedExecuteChangesNothing
  intro s h
  refine ⟨fun hnil => ?_, fun rest hcons => ?_⟩
  · rw [step_of_schedule_nil hnil, execute_of_blocked h]
  · have hstep : step s = execute (s.setSchedule rest) := by simp only [step, hcons, hostCall]
    exact hstep.trans (execute_of_blocked (s := s.setSchedule rest) h)

/-- Settles O49: the decode failure faults in no state, so it has its effect; what is left is the outbox. -/
theorem decodeFailureSkips : Obligations.DecodeFailureSkips := by
  unfold Obligations.DecodeFailureSkips
  intro w s
  obtain ⟨c, info, hr, -⟩ | he := exec_effect s (.unknown w) _ rfl
  · exact hr.elim
  · refine ⟨_, rfl, he.pc, ?_, he.frame⟩
    cases h : s.cfg.diagUnknown <;> simp

end Sys2Proof.Machine
end

section
/-! PROOFS. Control transfer (spec/40_control_flow.md): what an instruction that the fault table leaves out does, the push of
a CALL against the pop of a RET, and the two outcomes of a skip. From these, O24 to O28. -/

namespace Sys2Proof.Machine

theorem encoded_encode {i : Instr} (h : i.wf = true) : Encoded i (encode i) := ⟨rfl, decode_encode h⟩

section
variable {i : Instr} {s t : State}

/-! ### Completion -/

theorem effect_of_not_raises (h : exec i s = .next t) (hno : ∀ c info, ¬ Raises i s c info) : Effect i s t :=
  (exec_effect s i t h).resolve_left fun ⟨c, info, hr, _⟩ => hno c info hr

/-- Where the table gives no fault, the instruction has its effect (spec/60_exceptions.md R242). -/
theorem exec_completes (hno : ∀ c info, ¬ Raises i s c info) : ∃ t, exec i s = .next t ∧ Effect i s t :=
  (exec_answers s i).imp fun _ h => ⟨h, effect_of_not_raises h hno⟩

/-! ### The stack -/

section
variable {nnn : Addr12} {w : Word} (h : s.sp.val < 16)
include h

theorem not_raises_call (c : FaultCause) (info : Nat) : ¬ Raises (.call nnn) s c info := by
  rintro ⟨-, hfull, -⟩
  omega

/-- A CALL with room on the stack pushes PC and jumps (R122). -/
theorem exec_call : exec (.call nnn) s = .next ((s.push s.pc h).setPc (zext16 nnn)) := dif_pos h

/-- The push writes the entry at SP. -/
theorem State.getElem_push_stack (k : Nat) (hk : k < 16) :
    (s.push w h).stack[k] = if k = s.sp.val then w else s.stack[k] := by
  simp only [State.push_stack, Vector.getElem_set, eq_comm]

/-- The entry pushed is the next one popped. -/
theorem State.top_push : (s.push w h).top = w := by
  simp [State.top]

end

section
variable (h : s.sp.val ≠ 0)
include h

theorem not_raises_ret (c : FaultCause) (info : Nat) : ¬ Raises .ret s c info :=
  fun ⟨_, hempty, _⟩ => h hempty

/-- A RET with an entry on the stack pops it and goes on behind it (R121). -/
theorem exec_ret : exec .ret s = .next (s.pop.setPc (s.top + 2)) := if_neg h

end

/-- The top entry of a stack of `k + 1` entries is number `k` (spec/10_state.md R32). -/
theorem State.top_of_sp {k : Nat} (hk : k < 16) (h : s.sp.val = k + 1) : s.top = s.stack[k] := by
  simp [State.top, h]

/-- A RET in the state a CALL leaves: the CALL's own address is popped again. -/
theorem exec_ret_of_call (h : s.sp.val < 16) (w : Word) :
    exec .ret ((s.push s.pc h).setPc w) = .next (((s.push s.pc h).setPc w).pop.setPc (s.pc + 2)) := by
  rw [exec_ret (Nat.succ_ne_zero s.sp.val), State.top_setPc, State.top_push]

/-! ### The skips -/

theorem State.unchangedBut_skipIf (s : State) (c : Bool) : UnchangedBut [.pc] s (s.skipIf c) := by
  rw [State.skipIf_eq]
  constructor <;> simp

/-- A skip goes 4 on when the condition holds, else 2 (R120). -/
theorem State.toNat_skipIf_pc (s : State) {c : Bool} {p : Prop} [Decidable p] (hc : c = true ↔ p) :
    (s.skipIf c).pc.toNat = (s.pc.toNat + if p then 4 else 2) % 65536 := by
  rw [State.skipIf_eq, State.advance_pc, BitVec.toNat_add]
  by_cases hp : p
  · simp [hc.mpr hp, hp]
  · simp [Bool.eq_false_iff.mpr (mt hc.mp hp), hp]

/-- An instruction that only skips completes, and its one write is PC. -/
theorem exec_skip {c : Bool} {p : Prop} [Decidable p] (h : exec i s = .next (s.skipIf c)) (hc : c = true ↔ p) :
    ∃ t, exec i s = .next t ∧ t.pc.toNat = (s.pc.toNat + if p then 4 else 2) % 65536 ∧ UnchangedBut [.pc] s t :=
  ⟨_, h, s.toNat_skipIf_pc hc, s.unchangedBut_skipIf c⟩

end

/-! ### The obligations -/

/-- Settles O24: no row of the fault table is a jump's, and the effect gives its target and its frame. -/
theorem jumps : Obligations.Jumps := by
  unfold Obligations.Jumps
  intro nnn s
  refine ⟨encoded_encode (i := .jp nnn) rfl, encoded_encode (i := .jpV0 nnn) rfl, ?jp, ?jpV0⟩
  case jp =>
    obtain ⟨t, ht, he⟩ := exec_completes (i := .jp nnn) (s := s) fun _ _ => id
    exact ⟨t, ht, (congrArg BitVec.toNat he.pc).trans (toNat_zext16 nnn), he.frame⟩
  case jpV0 =>
    obtain ⟨t, ht, he⟩ := exec_completes (i := .jpV0 nnn) (s := s) fun _ _ => id
    exact ⟨t, ht, (congrArg BitVec.toNat he.pc).trans (toNat_zext16_add_zextByte nnn _), he.frame⟩

/-- Settles O25: with room on the stack the next state is the push and the jump, and the entries are those of the push; with
none the table gives the overflow. -/
theorem callPushesItsAddress : Obligations.CallPushesItsAddress := by
  unfold Obligations.CallPushesItsAddress
  intro nnn s
  refine ⟨encoded_encode (i := .call nnn) rfl, fun h => ?room, fun hfull => ?full⟩
  case room =>
    have he := effect_of_not_raises (exec_call (nnn := nnn) h) (not_raises_call h)
    refine ⟨_, exec_call h, toNat_zext16 nnn, rfl, ?pushed, fun k hk hne => ?kept, he.frame⟩
    case pushed => rw [State.setPc_stack, State.getElem_push_stack, if_pos rfl]
    case kept => rw [State.setPc_stack, State.getElem_push_stack, if_neg hne]
  case full => exact exec_of_raises (i := .call nnn) ⟨rfl, hfull, rfl⟩

/-- Settles O26: with an entry on the stack the next state is the pop, with PC the top entry plus 2; with none the table
gives the underflow. -/
theorem returnPopsAndAdvances : Obligations.ReturnPopsAndAdvances := by
  unfold Obligations.ReturnPopsAndAdvances
  intro s
  refine ⟨encoded_encode (i := .ret) rfl, fun k hk hsp => ?entry, fun hempty => ?empty⟩
  case entry =>
    have hne : s.sp.val ≠ 0 := by omega
    have he := effect_of_not_raises (exec_ret hne) (not_raises_ret hne)
    refine ⟨_, exec_ret hne, ?sp, ?pc, he.frame⟩
    case sp => exact Nat.sub_eq_of_eq_add hsp
    case pc => rw [State.setPc_pc, State.top_of_sp hk hsp, BitVec.toNat_add]; rfl
  case empty => exact exec_of_raises (i := .ret) ⟨rfl, hempty, rfl⟩

/-- Settles O27: the pop takes back what the push did to SP, and the entry pushed stays on the stack. -/
theorem returnUndoesCall : Obligations.ReturnUndoesCall := by
  unfold Obligations.ReturnUndoesCall
  intro nnn s h
  refine ⟨_, _, exec_call h, exec_ret_of_call h (zext16 nnn), rfl, rfl, ?pushed, fun k hk hne => ?kept, ?frame⟩
  case pushed => rw [State.setPc_stack, State.pop_stack, State.setPc_stack, State.getElem_push_stack, if_pos rfl]
  case kept => rw [State.setPc_stack, State.pop_stack, State.setPc_stack, State.getElem_push_stack, if_neg hne]
  case frame => constructor <;> simp

/-- Settles O28: each of the four is a skip on its condition. -/
theorem conditionalSkips : Obligations.ConditionalSkips := by
  unfold Obligations.ConditionalSkips
  refine ⟨fun x y n nn => ⟨encoded_encode (i := .seImm x nn) rfl, encoded_encode (i := .sneImm x nn) rfl,
    encoded_encode (i := .seReg x y n) rfl, encoded_encode (i := .sneReg x y n) rfl⟩, fun i x b s => ⟨?eq, ?ne⟩⟩
  case eq =>
    have hc : (s.getV x == b) = true ↔ (s.getV x).toNat = b.toNat := by rw [beq_iff_eq, BitVec.toNat_inj]
    rintro (rfl | ⟨y, n, rfl, rfl⟩) <;> exact exec_skip rfl hc
  case ne =>
    have hc : (s.getV x != b) = true ↔ (s.getV x).toNat ≠ b.toNat := by rw [bne_iff_ne, Ne, ← BitVec.toNat_inj]
    rintro (rfl | ⟨y, n, rfl, rfl⟩) <;> exact exec_skip rfl hc

end Sys2Proof.Machine
end

section
/-! PROOFS. Loads and ALU (spec/41_alu.md): the two shapes an instruction of this family has, one register written, or a
result and then the flag, and the arithmetic of the values written. From these, O29 to O35. -/

namespace Sys2Proof.Machine

section
variable {i : Instr} {s : State} {x : Nibble} {b : Byte} {c : Bool}

/-! ### The two shapes -/

/-- An instruction whose next state is one register written and PC + 2 completes, and does that only. -/
theorem exec_setV (h : exec i s = .next ((s.setV x b).advance 2)) :
    ∃ t, exec i s = .next t ∧ t.getV x = b ∧ (∀ r, r ≠ x → t.getV r = s.getV r) ∧ t.pc = s.pc + 2 ∧
      UnchangedBut [.v, .pc] s t := by
  refine ⟨_, h, by simp, fun r hr => by simp [hr], rfl, ?frame⟩
  case frame => constructor <;> simp

/-- The same for a result and then the flag: the result stands in `V[x]` unless the flag took its place (R139). -/
theorem exec_setResultAndFlag (h : exec i s = .next ((s.setResultAndFlag x b c).advance 2)) :
    ∃ t, exec i s = .next t ∧ (x ≠ vf → t.getV x = b) ∧ t.getV vf = flagByte c ∧
      (∀ r, r ≠ x → r ≠ vf → t.getV r = s.getV r) ∧ t.pc = s.pc + 2 ∧ UnchangedBut [.v, .pc] s t := by
  refine ⟨_, h, fun hx => by simp [hx], by simp, fun r hr hvf => by simp [hr, hvf], rfl, ?frame⟩
  case frame => constructor <;> simp [State.setResultAndFlag]

end

/-! ### Flags and results as numbers -/

theorem flagByte_decide (p : Prop) [Decidable p] : flagByte (decide p) = if p then 1 else 0 := by
  by_cases h : p <;> simp [flagByte, h]

theorem toNat_flagByte (c : Bool) : (flagByte c).toNat = c.toNat := by cases c <;> rfl

/-- The flag of a bit shifted out is the binary digit at its place. -/
theorem toNat_flagByte_getLsbD (b : Byte) (k : Nat) : (flagByte (b.getLsbD k)).toNat = b.toNat / 2 ^ k % 2 :=
  (toNat_flagByte _).trans (Nat.toNat_testBit _ _)

/-- The byte of a difference is the integer difference modulo 256. -/
theorem toNat_sub_eq_emod (a b : Byte) : ((a - b).toNat : Int) = ((a.toNat : Int) - b.toNat) % 256 := by
  rw [BitVec.toNat_sub]
  omega

/-! ### The obligations -/

/-- Settles O29: each of the three writes the one value to its register. -/
theorem registerLoads : Obligations.RegisterLoads := by
  unfold Obligations.RegisterLoads
  refine ⟨fun x y nn => ⟨encoded_encode (i := .ldImm x nn) rfl, encoded_encode (i := .ldReg x y) rfl,
    encoded_encode (i := .ldVxDt x) rfl⟩, fun i x b s => ?_⟩
  rintro (rfl | ⟨y, rfl, rfl⟩ | ⟨rfl, rfl⟩) <;> exact exec_setV rfl

/-- Settles O30: the one register written holds the sum of two bytes. -/
theorem addImmediateWraps : Obligations.AddImmediateWraps := by
  unfold Obligations.AddImmediateWraps
  intro x nn s
  obtain ⟨t, ht, hx, hrest⟩ := exec_setV (i := .addImm x nn) (s := s) rfl
  exact ⟨encoded_encode (i := .addImm x nn) rfl, t, ht, by rw [hx, BitVec.toNat_add], hrest⟩

/-- Settles O31: each of the three writes a byte whose bits are the operation on the operands' bits. -/
theorem bitwiseOperations : Obligations.BitwiseOperations := by
  unfold Obligations.BitwiseOperations
  refine ⟨fun x y => ⟨encoded_encode (i := .orReg x y) rfl, encoded_encode (i := .andReg x y) rfl,
    encoded_encode (i := .xorReg x y) rfl⟩, fun i x y f s hi => ?_⟩
  obtain ⟨b, hexec, hbits⟩ : ∃ b : Byte, exec i s = .next ((s.setV x b).advance 2) ∧
      ∀ j, b.getLsbD j = f ((s.getV x).getLsbD j) ((s.getV y).getLsbD j) := by
    obtain ⟨rfl, rfl⟩ | ⟨rfl, rfl⟩ | ⟨rfl, rfl⟩ := hi
    · exact ⟨_, rfl, fun _ => BitVec.getLsbD_or⟩
    · exact ⟨_, rfl, fun _ => BitVec.getLsbD_and⟩
    · exact ⟨_, rfl, fun _ => BitVec.getLsbD_xor⟩
  obtain ⟨t, ht, hx, hrest⟩ := exec_setV hexec
  exact ⟨t, ht, fun j _ => hx ▸ hbits j, hrest⟩

/-- Settles O32: the result is the sum of two bytes, the flag the carry. -/
theorem addRegistersWithCarry : Obligations.AddRegistersWithCarry := by
  unfold Obligations.AddRegistersWithCarry
  intro x y s
  obtain ⟨t, ht, hx, hflag, hrest⟩ := exec_setResultAndFlag (i := .addReg x y) (s := s) rfl
  exact ⟨encoded_encode (i := .addReg x y) rfl, t, ht, fun hne => by rw [hx hne, BitVec.toNat_add],
    hflag.trans (flagByte_decide _), hrest⟩

/-- Settles O33: either instruction is the subtraction of its subtrahend from its minuend. -/
theorem subtractWithNoBorrow : Obligations.SubtractWithNoBorrow := by
  unfold Obligations.SubtractWithNoBorrow
  refine ⟨fun x y => ⟨encoded_encode (i := .subReg x y) rfl, encoded_encode (i := .subnReg x y) rfl⟩,
    fun i x y a b s hi => ?_⟩
  have hexec : exec i s = .next ((s.setResultAndFlag x (a - b) (noBorrow a b)).advance 2) := by
    obtain ⟨rfl, rfl, rfl⟩ | ⟨rfl, rfl, rfl⟩ := hi <;> rfl
  obtain ⟨t, ht, hx, hflag, hrest⟩ := exec_setResultAndFlag hexec
  exact ⟨t, ht, fun hne => by rw [hx hne, toNat_sub_eq_emod], hflag.trans (flagByte_decide _), hrest⟩

/-- Settles O34: the result is the byte shifted by one place, the flag its lowest or its highest binary digit. -/
theorem shiftsInPlace : Obligations.ShiftsInPlace := by
  unfold Obligations.ShiftsInPlace
  intro x y s
  refine ⟨encoded_encode (i := .shr x y) rfl, encoded_encode (i := .shl x y) rfl, ?shr, ?shl⟩
  case shr =>
    obtain ⟨t, ht, hx, hflag, hrest⟩ := exec_setResultAndFlag (i := .shr x y) (s := s) rfl
    refine ⟨t, ht, fun hne => ?half, ?bit0, hrest⟩
    case half => rw [hx hne, BitVec.toNat_ushiftRight, Nat.shiftRight_eq_div_pow, pow_one]
    case bit0 => rw [hflag, shiftedOutRight, toNat_flagByte_getLsbD, pow_zero, Nat.div_one]
  case shl =>
    obtain ⟨t, ht, hx, hflag, hrest⟩ := exec_setResultAndFlag (i := .shl x y) (s := s) rfl
    refine ⟨t, ht, fun hne => ?double, ?bit7, hrest⟩
    case double => rw [hx hne, BitVec.toNat_shiftLeft, Nat.shiftLeft_eq, pow_one]
    case bit7 =>
      have hlt : (s.getV x).toNat / 2 ^ 7 < 2 := Nat.div_lt_of_lt_mul (s.getV x).isLt
      rw [hflag, shiftedOutLeft, toNat_flagByte_getLsbD, Nat.mod_eq_of_lt hlt]
      rfl

/-- Settles O35: the register written holds the answer masked, and a masked byte is at most its mask. -/
theorem randomByteMasked : Obligations.RandomByteMasked := by
  unfold Obligations.RandomByteMasked
  intro x nn s
  have hx : ((s.countDraw.setV x (s.randByte &&& nn)).advance 2).getV x = s.randByte &&& nn := by simp
  refine ⟨encoded_encode (i := .rnd x nn) rfl, _, rfl, hx, ?bound, rfl, fun r hr => by simp [hr], rfl, ?frame⟩
  case bound => rw [hx, BitVec.toNat_and]; exact Nat.and_le_right
  case frame => constructor <;> simp

end Sys2Proof.Machine
end

section
/-! PROOFS. Index register and memory (spec/42_index_memory.md): the three shapes an instruction of this family has, I
written, bytes written at I, or registers loaded from I, each through the address rule. From these, O36 to O39. -/

namespace Sys2Proof.Machine

section
variable {i : Instr} {s : State} {n : Nat} {bs : List Byte}

/-! ### Bytes at I through the address rule -/

/-- The byte written at the k-th address from I up is read where the address rule puts that address. -/
theorem State.readByte_writeBytes_of_resolve (hn : n ≤ memSize) (hl : bs.length = n) {k a : Nat} (hk : k < n)
    (ha : resolve s.cfg.oobPolicy (s.i.toNat + k) = some a) :
    (s.writeBytes (s.addrsAtI n) bs).readByte a = bs[k] := by
  rw [(resolve_eq_some.mp ha).2, State.readByte_writeBytes_addrsAtI s hn hl hk]

/-- The k-th byte read from I up is the one where the address rule puts that address. -/
theorem State.getElem_rowsAtI_of_resolve {k a : Nat} (hk : k < (s.rowsAtI n).length)
    (ha : resolve s.cfg.oobPolicy (s.i.toNat + k) = some a) : (s.rowsAtI n)[k] = s.readByte a := by
  rw [State.getElem_rowsAtI, State.spriteRow, (resolve_eq_some.mp ha).2]

/-! ### The three shapes -/

/-- An instruction whose next state is I written and PC + 2 completes, and does that only. -/
theorem exec_setI {w : Word} (h : exec i s = .next ((s.setI w).advance 2)) :
    ∃ t, exec i s = .next t ∧ t.i = w ∧ t.pc = s.pc + 2 ∧ UnchangedBut [.i, .pc] s t := by
  refine ⟨_, h, rfl, rfl, ?frame⟩
  case frame => constructor <;> simp

/-- An instruction whose next state is `n` bytes written at accessible addresses from I up and PC + 2 completes, and does
that only. -/
theorem exec_writeBytes (h : exec i s = .next ((s.writeBytes (s.addrsAtI n) bs).advance 2))
    (hacc : Accessible s s.i.toNat n) (hn : n ≤ memSize) (hl : bs.length = n) :
    ∃ t, exec i s = .next t ∧
      (∀ (k a : Nat) (hk : k < n), resolve s.cfg.oobPolicy (s.i.toNat + k) = some a → t.readByte a = bs[k]) ∧
      (∀ a, (∀ k < n, resolve s.cfg.oobPolicy (s.i.toNat + k) ≠ some a) → t.readByte a = s.readByte a) ∧
      t.pc = s.pc + 2 ∧ UnchangedBut [.mem, .pc] s t := by
  refine ⟨_, h, fun k a hk ha => ?stored, fun a ha => ?kept, ?pc, ?frame⟩
  case stored => exact State.readByte_writeBytes_of_resolve hn hl hk ha
  case kept => exact State.readByte_writeBytes_of_unresolved hacc ha
  case pc => rw [State.advance_pc, State.writeBytes_eq]
  case frame => exact (State.unchangedBut_writeBytes (by simp) _ _).advance (by simp) 2

/-- An instruction whose next state is `n` registers loaded from I up and PC + 2 completes, and does that only. -/
theorem exec_setRegsFrom (h : exec i s = .next ((State.setRegsFrom 0 (s.rowsAtI n) s).advance 2)) (hn : n ≤ 16) :
    ∃ t, exec i s = .next t ∧
      (∀ (r : Nibble) (a : Nat), r.toNat < n → resolve s.cfg.oobPolicy (s.i.toNat + r.toNat) = some a →
        t.getV r = s.readByte a) ∧
      (∀ r : Nibble, n ≤ r.toNat → t.getV r = s.getV r) ∧ t.pc = s.pc + 2 ∧ UnchangedBut [.v, .pc] s t := by
  have hlen : 0 + (s.rowsAtI n).length ≤ 16 := by simpa using hn
  refine ⟨_, h, fun r a hr ha => ?loaded, fun r hr => ?kept, ?pc, ?frame⟩
  case loaded =>
    rw [State.getV_advance, State.getV_setRegsFrom s hlen, dif_pos (by simpa using hr)]
    exact State.getElem_rowsAtI_of_resolve _ ha
  case kept => rw [State.getV_advance, State.getV_setRegsFrom s hlen, dif_neg (by simpa using hr)]
  case pc => rw [State.advance_pc, State.setRegsFrom_eq]
  case frame => exact (State.unchangedBut_setRegsFrom (by simp) _ _).advance (by simp) 2

end

/-! ### Values as numbers -/

theorem toNat_add_zextByte (w : Word) (b : Byte) : (w + zextByte b).toNat = (w.toNat + b.toNat) % 65536 := by
  simp only [zextByte, BitVec.toNat_add, BitVec.toNat_setWidth]; omega

theorem toNat_glyphAddr (b : Byte) : (glyphAddr b).toNat = 0x050 + b.toNat * 5 := by
  simp only [glyphAddr, fontBase, fontGlyphBytes, BitVec.toNat_ofNat]; omega

@[simp] theorem length_bcdDigits (b : Byte) : (bcdDigits b).length = 3 := rfl

/-- Each decimal digit of a byte fits a byte. -/
theorem toNat_bcdDigits (b : Byte) : (bcdDigits b)[0].toNat = b.toNat / 100 ∧
    (bcdDigits b)[1].toNat = b.toNat / 10 % 10 ∧ (bcdDigits b)[2].toNat = b.toNat % 10 := by
  simp only [bcdDigits, List.getElem_cons_zero, List.getElem_cons_succ, BitVec.toNat_ofNat]
  omega

/-! ### The obligations -/

/-- Settles O37: the bytes written are the three digits, and the table gives the fault. -/
theorem bcdStored : Obligations.BcdStored := by
  unfold Obligations.BcdStored
  intro x s
  refine ⟨encoded_encode (i := .ldB x) rfl, fun hacc => ?completes, fun a hlow => ?faults⟩
  case completes =>
    obtain ⟨t, ht, hstored, hrest⟩ := exec_writeBytes (i := .ldB x) (withRange_of_accessible hacc .write _) hacc
      (by decide) (length_bcdDigits (s.getV x))
    obtain ⟨h100, h10, h1⟩ := toNat_bcdDigits (s.getV x)
    refine ⟨t, ht, fun a ha => ?_, fun a ha => ?_, fun a ha => ?_, hrest⟩
    · exact (congrArg BitVec.toNat (hstored 0 a (by decide) ha)).trans h100
    · exact (congrArg BitVec.toNat (hstored 1 a (by decide) ha)).trans h10
    · exact (congrArg BitVec.toNat (hstored 2 a (by decide) ha)).trans h1
  case faults => exact exec_of_raises (i := .ldB x) ⟨rfl, hlow⟩

/-- Settles O38: the bytes written are the registers up to `x`, and the table gives the fault. -/
theorem registersDumped : Obligations.RegistersDumped := by
  unfold Obligations.RegistersDumped
  intro x s
  refine ⟨encoded_encode (i := .dumpRegs x) rfl, fun hacc => ?completes, fun a hlow => ?faults⟩
  case completes =>
    have hn : x.toNat + 1 ≤ memSize := by unfold memSize; omega
    obtain ⟨t, ht, hstored, hkept, hrest⟩ :=
      exec_writeBytes (exec_dumpRegs_of_accessible hacc) hacc hn (s.length_regsUpTo x)
    refine ⟨t, ht, fun k a hk ha => ?stored, fun a ha => hkept a fun k hk => ha k (Nat.le_of_lt_succ hk), hrest⟩
    case stored =>
      rw [hstored k.toNat a (Nat.lt_succ_of_le hk) ha, State.getElem_regsUpTo, BitVec.ofNat_toNat, BitVec.setWidth_eq]
  case faults => exact exec_of_raises (i := .dumpRegs x) ⟨rfl, hlow⟩

/-- Settles O39: the registers loaded are those up to `x`, and the table gives the fault. -/
theorem registersLoaded : Obligations.RegistersLoaded := by
  unfold Obligations.RegistersLoaded
  intro x s
  refine ⟨encoded_encode (i := .loadRegs x) rfl, fun hacc => ?completes, fun a hlow => ?faults⟩
  case completes =>
    obtain ⟨t, ht, hloaded, hkept, hrest⟩ :=
      exec_setRegsFrom (i := .loadRegs x) (withRange_of_accessible hacc .read _) x.isLt
    exact ⟨t, ht, fun k a hk ha => hloaded k a (Nat.lt_succ_of_le hk) ha, hkept, hrest⟩
  case faults => exact exec_of_raises (i := .loadRegs x) ⟨rfl, hlow⟩

/-- Settles O36: each of the three writes I, with the value as a number. -/
theorem indexRegisterWrites : Obligations.IndexRegisterWrites := by
  unfold Obligations.IndexRegisterWrites
  refine ⟨fun x nnn => ⟨encoded_encode (i := .ldI nnn) rfl, encoded_encode (i := .addI x) rfl,
    encoded_encode (i := .ldF x) rfl⟩, fun i v s hi => ?_⟩
  obtain ⟨w, hexec, rfl⟩ : ∃ w, exec i s = .next ((s.setI w).advance 2) ∧ w.toNat = v := by
    obtain ⟨nnn, rfl, rfl⟩ | ⟨x, rfl, rfl⟩ | ⟨x, rfl, rfl⟩ := hi
    · exact ⟨_, rfl, toNat_zext16 nnn⟩
    · exact ⟨_, rfl, toNat_add_zextByte s.i (s.getV x)⟩
    · exact ⟨_, rfl, toNat_glyphAddr (s.getV x)⟩
  obtain ⟨t, ht, hti, hrest⟩ := exec_setI hexec
  exact ⟨t, ht, congrArg BitVec.toNat hti, hrest⟩

end Sys2Proof.Machine
end

section
/-! PROOFS. Display operations (spec/43_display.md): the state a draw leaves, pixel by pixel and in VF, and that the
pixels covered depend on the origin and the rows only. From these, O40 to O43. -/

namespace Sys2Proof.Machine

/-- Some set bit of the `n` rows at I, drawn at `(V[x], V[y])`, falls on the pixel (R191). -/
def State.SpriteCovers (s : State) (x y n : Nibble) (p : Pixel) : Prop :=
  Covers (s.getV x).toNat (s.getV y).toNat n.toNat s.spriteRow p

/-- The display and the collision of drawing the `n` rows at I at `(V[x], V[y])` (R192). -/
def State.spriteResult (s : State) (x y n : Nibble) : Display × Bool :=
  drawSprite (s.getV x).toNat (s.getV y).toNat (s.rowsAtI n.toNat) s.disp

/-- The state a draw leaves where no address faults (R192). -/
def State.drawn (s : State) (x y n : Nibble) : State :=
  (((s.setDisp (s.spriteResult x y n).1).setV vf (flagByte (s.spriteResult x y n).2)).setDraw true).advance 2

section
variable {s : State} {x y n : Nibble} {p : Pixel}

/-! ### The pixels covered -/

/-- Only the rows drawn matter. -/
theorem Covers.of_rows_eq {ox oy m : Nat} {row row' : Nat → Byte} (hrows : ∀ r < m, row' r = row r)
    (h : Covers ox oy m row p) : Covers ox oy m row' p := by
  obtain ⟨r, hr, c, hc, hbit, hp⟩ := h
  exact ⟨r, hr, c, hc, by rwa [hrows r hr], hp⟩

/-- The same rows at the same origin cover the same pixels, whichever registers give the origin. -/
theorem State.spriteCovers_congr {t : State} {x' y' : Nibble} (hx : t.getV x' = s.getV x) (hy : t.getV y' = s.getV y)
    (hrows : ∀ r < n.toNat, t.spriteRow r = s.spriteRow r) : t.SpriteCovers x' y' n p ↔ s.SpriteCovers x y n p := by
  unfold State.SpriteCovers
  rw [hx, hy]
  exact ⟨Covers.of_rows_eq fun r hr => (hrows r hr).symm, Covers.of_rows_eq hrows⟩

/-! ### The state a draw leaves -/

theorem exec_drw_of_accessible (h : Accessible s s.i.toNat n.toNat) : exec (.drw x y n) s = .next (s.drawn x y n) :=
  withRange_of_accessible h .read _

theorem length_rowsAtI_le_32 (s : State) (n : Nibble) : (s.rowsAtI n.toNat).length ≤ 32 := by
  rw [State.length_rowsAtI]; omega

theorem State.get_drawn_of_spriteCovers (h : s.SpriteCovers x y n p) : (s.drawn x y n).disp.get p = !s.disp.get p := by
  refine ((drawSprite_spec (length_rowsAtI_le_32 s n) s.disp).1 p).trans (if_pos ?_)
  exact (mem_spritePixels_rowsAtI s).mpr h

theorem State.get_drawn_of_not_spriteCovers (h : ¬ s.SpriteCovers x y n p) :
    (s.drawn x y n).disp.get p = s.disp.get p := by
  refine ((drawSprite_spec (length_rowsAtI_le_32 s n) s.disp).1 p).trans (if_neg ?_)
  exact mt (mem_spritePixels_rowsAtI s).mp h

/-- The collision: some covered pixel was set (R195). -/
theorem State.spriteResult_collision_iff :
    (s.spriteResult x y n).2 = true ↔ ∃ p, s.SpriteCovers x y n p ∧ s.disp.get p = true := by
  rw [State.spriteResult, (drawSprite_spec (length_rowsAtI_le_32 s n) s.disp).2, List.any_eq_true]
  exact exists_congr fun p => and_congr_left' (mem_spritePixels_rowsAtI s)

theorem State.getV_drawn (r : Nibble) :
    (s.drawn x y n).getV r = if r = vf then flagByte (s.spriteResult x y n).2 else s.getV r := by
  simp [State.drawn]

theorem flagByte_eq_one_iff {c : Bool} : flagByte c = 1 ↔ c = true := by cases c <;> decide

theorem flagByte_eq_zero_iff {c : Bool} : flagByte c = 0 ↔ ¬ c = true := by cases c <;> decide

theorem State.getV_vf_drawn_eq_one_iff :
    (s.drawn x y n).getV vf = 1 ↔ ∃ p, s.SpriteCovers x y n p ∧ s.disp.get p = true := by
  rw [State.getV_drawn, if_pos rfl, flagByte_eq_one_iff, State.spriteResult_collision_iff]

theorem State.getV_vf_drawn_eq_zero_iff :
    (s.drawn x y n).getV vf = 0 ↔ ∀ p, s.SpriteCovers x y n p → s.disp.get p = false := by
  rw [State.getV_drawn, if_pos rfl, flagByte_eq_zero_iff, State.spriteResult_collision_iff]
  simp only [not_exists, not_and, Bool.not_eq_true]

theorem State.unchangedBut_drawn : UnchangedBut [.disp, .v, .draw, .pc] s (s.drawn x y n) := by
  constructor <;> simp [State.drawn]

/-- A sprite of no row leaves the display alone, whatever I holds (R193). -/
theorem exec_drw_zero : exec (.drw x y 0) s = .next (((s.setV vf 0).setDraw true).advance 2) := rfl

end

/-! ### The obligations -/

/-- Settles O40: the next state is the cleared display with the draw flag. -/
theorem clearScreen : Obligations.ClearScreen := by
  unfold Obligations.ClearScreen
  intro s
  refine ⟨encoded_encode (i := .cls) rfl, _, rfl, Display.get_clear, rfl, rfl, ?frame⟩
  case frame => constructor <;> simp

/-- Settles O41: where no address faults the next state is the draw's, and else the table gives the fault. -/
theorem spriteDrawn : Obligations.SpriteDrawn := by
  unfold Obligations.SpriteDrawn
  intro x y n s
  refine ⟨encoded_encode (i := .drw x y n) rfl, fun hacc => ?completes, fun a hlow => ?faults⟩
  case completes =>
    exact ⟨s.drawn x y n, exec_drw_of_accessible hacc,
      fun p => ⟨State.get_drawn_of_spriteCovers, State.get_drawn_of_not_spriteCovers⟩,
      State.getV_vf_drawn_eq_one_iff.mpr, State.getV_vf_drawn_eq_zero_iff.mpr,
      fun r hr => (State.getV_drawn r).trans (if_neg hr), rfl, rfl, State.unchangedBut_drawn⟩
  case faults => exact exec_of_raises (i := .drw x y n) ⟨rfl, hlow⟩

/-- Settles O42: the next state of a draw of no row, in every state. -/
theorem emptySpriteDrawn : Obligations.EmptySpriteDrawn := by
  unfold Obligations.EmptySpriteDrawn
  intro x y s
  refine ⟨_, exec_drw_zero, by simp, fun r hr => by simp [hr], rfl, rfl, ?frame⟩
  case frame => constructor <;> simp

/-- Settles O43: both draws cover the same pixels, so each covered pixel is toggled twice, and one that the second draw
finds set was unset before the first. -/
theorem drawingTwiceRestores : Obligations.DrawingTwiceRestores := by
  unfold Obligations.DrawingTwiceRestores
  intro x y n s t hacc ht
  cases (exec_drw_of_accessible hacc).symm.trans ht
  refine ⟨State.getV_vf_drawn_eq_one_iff, fun x' y' t' u hdisp hx hy hrows hacc' hu => ?_⟩
  cases (exec_drw_of_accessible hacc').symm.trans hu
  have hcov (p : Pixel) : t'.SpriteCovers x' y' n p ↔ s.SpriteCovers x y n p := State.spriteCovers_congr hx hy hrows
  have htoggled {p : Pixel} (hp : s.SpriteCovers x y n p) : t'.disp.get p = !s.disp.get p :=
    (hdisp p).trans (State.get_drawn_of_spriteCovers hp)
  refine ⟨fun p => ?restored, ?collision⟩
  case restored =>
    by_cases hp : s.SpriteCovers x y n p
    · rw [State.get_drawn_of_spriteCovers ((hcov p).mpr hp), htoggled hp, Bool.not_not]
    · rw [State.get_drawn_of_not_spriteCovers (mt (hcov p).mp hp), hdisp, State.get_drawn_of_not_spriteCovers hp]
  case collision =>
    refine State.getV_vf_drawn_eq_one_iff.trans (exists_congr fun p => ?_)
    rw [hcov]
    exact and_congr_right fun hp => by rw [htoggled hp, Bool.not_eq_true']

end Sys2Proof.Machine
end

section
/-! PROOFS. Keys and timers (spec/44_keys_timers.md): the key a register names, what a host call leaves alone during a
wait, and the press that ends it. From these, O44 to O46 and O48. -/

namespace Sys2Proof.Machine

section
variable {s t u : State}

/-! ### The key skips -/

theorem withKey_of_toNat_eq {k : Nibble} {b : Byte} (h : k.toNat = b.toNat) (go : Bool → Result) :
    withKey b s go = go (s.getKey k) := by
  have hk : b.setWidth 4 = k := BitVec.eq_of_toNat_eq (by simp [← h, Nat.mod_eq_of_lt k.isLt])
  obtain ⟨-, e⟩ | ⟨hgt, -⟩ := withKey_cases s b go
  · rw [e, hk]
  · omega

theorem exec_skp_of_toNat_eq {x k : Nibble} (h : k.toNat = (s.getV x).toNat) :
    exec (.skp x) s = .next (s.skipIf (s.getKey k)) :=
  withKey_of_toNat_eq h fun down => .next (s.skipIf down)

theorem exec_sknp_of_toNat_eq {x k : Nibble} (h : k.toNat = (s.getV x).toNat) :
    exec (.sknp x) s = .next (s.skipIf (!s.getKey k)) :=
  withKey_of_toNat_eq h fun down => .next (s.skipIf (!down))

/-- `State.toNat_skipIf_pc` on the words themselves. -/
theorem State.skipIf_pc_of_iff {c : Bool} {p : Prop} [Decidable p] (hc : c = true ↔ p) :
    (s.skipIf c).pc = s.pc + if p then 4 else 2 := by
  simp only [State.skipIf_eq, State.advance_pc, hc]

/-! ### A frame under more parts -/

theorem UnchangedBut.mono {ps qs : List Part} (h : UnchangedBut ps s t) (hsub : ps ⊆ qs) : UnchangedBut qs s t where
  cfg := h.cfg
  mem := h.mem ∘ mt (@hsub _)
  v := h.v ∘ mt (@hsub _)
  i := h.i ∘ mt (@hsub _)
  pc := h.pc ∘ mt (@hsub _)
  sp := h.sp ∘ mt (@hsub _)
  stack := h.stack ∘ mt (@hsub _)
  dt := h.dt ∘ mt (@hsub _)
  st := h.st ∘ mt (@hsub _)
  key := h.key ∘ mt (@hsub _)
  wait := h.wait ∘ mt (@hsub _)
  draw := h.draw ∘ mt (@hsub _)
  fault := h.fault ∘ mt (@hsub _)
  disp := h.disp ∘ mt (@hsub _)
  draws := h.draws ∘ mt (@hsub _)
  schedule := h.schedule ∘ mt (@hsub _)
  outbox := h.outbox ∘ mt (@hsub _)

/-- A frame that leaves the schedule open does not see the call taken off it. -/
theorem UnchangedBut.of_setSchedule {ps : List Part} {cs : List HostCall} (h : UnchangedBut ps (s.setSchedule cs) t)
    (hp : .schedule ∈ ps) : UnchangedBut ps s t :=
  { h with schedule := fun hn => absurd hp hn }

/-! ### The wait -/

/-- The parts a host call may change while the core waits for a key and goes on waiting (spec/60_exceptions.md R243). -/
@[simp] def partsOpenInWait : List Part := [.mem, .dt, .st, .key, .draw, .outbox]

/-- A host call that does not end a wait leaves the wait, FAULT, PC and the registers alone. -/
theorem hostCall_unchangedBut_in_wait {c : HostCall} (hs : s.susp = true) (hc : c.endsWait = false)
    (ht : hostCall c s = .next t) : UnchangedBut partsOpenInWait s t := by
  cases c
  case reset => cases hc
  case execute =>
    cases (execute_of_blocked (.inr hs)).symm.trans ht
    constructor <;> simp
  case tick | resetKeys | clearDrawFlag | observe =>
    cases ht
    constructor <;> simp [State.tick]
  case setKey k pressed =>
    cases ht
    split
    next => constructor <;> simp
    next hk =>
      have hreleased : pressed = false := by simpa [HostCall.endsWait, Nat.not_lt.mp hk] using hc
      rw [State.setKey_eq, if_neg (by simp [hreleased])]
      constructor <;> simp
  case load bytes =>
    cases ht
    split
    · constructor <;> simp
    · exact (s.unchangedBut_load bytes).mono (by simp)

/-- The same for a step, which also takes the call off the schedule. -/
theorem step_unchangedBut_in_wait {c : HostCall} {rest : List HostCall} (hs : s.susp = true) (hc : c.endsWait = false)
    (hcons : s.schedule = c :: rest) :
    ∃ t, step s = .next t ∧ t.schedule = rest ∧ UnchangedBut (.schedule :: partsOpenInWait) s t := by
  obtain ⟨t, ht⟩ := hostCall_answers (s.setSchedule rest) c
  have hf := hostCall_unchangedBut_in_wait (s := s.setSchedule rest) hs hc ht
  refine ⟨t, ?_, hf.schedule (by simp), (hf.mono (by simp)).of_setSchedule (by simp)⟩
  simp only [step, hcons, ht]

/-- What the press of key `k` that ends the wait of `s` has done in `u` (spec/44_keys_timers.md R216). -/
structure WaitResolved (k : Nibble) (s u : State) : Prop where
  susp : u.susp = false
  fault : u.fault = s.fault
  pc : u.pc = s.pc + 2
  reg : u.getV s.waitReg = k.setWidth 8
  regs : ∀ r, r ≠ s.waitReg → u.getV r = s.getV r
  key : u.getKey k = true

/-- A press that resolves the wait of a later state resolves the wait of the state it has gone on from. -/
theorem WaitResolved.of_unchangedBut {k : Nibble} (hf : UnchangedBut (.schedule :: partsOpenInWait) s t)
    (h : WaitResolved k t u) : WaitResolved k s u := by
  have hv := hf.v (by simp)
  have hreg := (hf.wait (by simp)).2
  exact {
    susp := h.susp
    fault := h.fault.trans (hf.fault (by simp))
    pc := h.pc.trans (congrArg (· + 2) (hf.pc (by simp)))
    reg := hreg ▸ h.reg
    regs := fun r hr => (h.regs r (hreg ▸ hr)).trans (hv r)
    key := h.key }

/-- The step that presses a key while the core waits. -/
theorem step_press_resolves_wait {k : Nibble} {rest : List HostCall} (hs : s.susp = true)
    (hcons : s.schedule = .setKey k.toNat true :: rest) :
    ∃ u, step s = .next u ∧ WaitResolved k s u := by
  have hk : ¬ k.toNat > 15 := by omega
  refine ⟨((s.setSchedule rest).setKeyFlag k true).resolveWait k, ?_, ?_⟩
  · simp [step, hcons, hostCall, hk, State.setKey_eq, hs]
  · constructor <;> simp +contextual [State.resolveWait]

/-- A wait goes on through every call that does not end it, until the press. -/
theorem run_waitResolved {k : Nibble} {calls : List HostCall} (hs : s.susp = true)
    (hc : ∀ c ∈ calls, c.endsWait = false) (hsched : s.schedule = calls ++ [.setKey k.toNat true]) :
    ∃ u : State, Host.Core.run core (calls.length + 1) s = .next u ∧ WaitResolved k s u := by
  induction calls generalizing s with
  | nil =>
    obtain ⟨u, hstep, hu⟩ := step_press_resolves_wait hs hsched
    exact ⟨u, (run_succ 0 hstep).trans (run_zero u), hu⟩
  | cons c calls ih =>
    obtain ⟨hc, hcalls⟩ := List.forall_mem_cons.mp hc
    obtain ⟨t, hstep, hrest, hf⟩ := step_unchangedBut_in_wait hs hc hsched
    have hwait : t.susp = true := (hf.wait (by simp)).1.trans hs
    obtain ⟨u, hrun, hu⟩ := ih hwait hcalls hrest
    exact ⟨u, (run_succ _ hstep).trans hrun, hu.of_unchangedBut hf⟩

end

/-! ### The obligations -/

/-- Settles O44: a number up to 15 names its key, and each instruction skips on that key's flag; for a larger number the
table gives the fault. -/
theorem keySkips : Obligations.KeySkips := by
  unfold Obligations.KeySkips
  intro x s
  refine ⟨encoded_encode (i := .skp x) rfl, encoded_encode (i := .sknp x) rfl, fun k hk => ⟨?skp, ?sknp⟩,
    fun hgt i => ?fault⟩
  case skp => exact ⟨_, exec_skp_of_toNat_eq hk, State.skipIf_pc_of_iff .rfl, s.unchangedBut_skipIf _⟩
  case sknp =>
    exact ⟨_, exec_sknp_of_toNat_eq hk, State.skipIf_pc_of_iff (by rw [Bool.not_eq_true']), s.unchangedBut_skipIf _⟩
  case fault => rintro (rfl | rfl) <;> exact exec_of_raises ⟨rfl, hgt, rfl⟩

/-- Settles O45: neither instruction faults, and what its effect leaves open is its timer, set from the register. -/
theorem timersSet : Obligations.TimersSet := by
  unfold Obligations.TimersSet
  intro x s
  have hdt := effect_of_not_raises (i := .ldDtVx x) (s := s) rfl fun _ _ => id
  have hst := effect_of_not_raises (i := .ldStVx x) (s := s) rfl fun _ _ => id
  exact ⟨encoded_encode (i := .ldDtVx x) rfl, encoded_encode (i := .ldStVx x) rfl,
    ⟨_, rfl, rfl, hdt.pc, hdt.frame.mono (by simp [writtenParts])⟩,
    ⟨_, rfl, rfl, hst.pc, hst.frame.mono (by simp [writtenParts])⟩⟩

/-- Settles O46: the effect of FX0A leaves open the wait only. -/
theorem waitForKeySuspends : Obligations.WaitForKeySuspends := by
  unfold Obligations.WaitForKeySuspends
  intro x s
  have he := effect_of_not_raises (i := .ldVxK x) (s := s) rfl fun _ _ => id
  exact ⟨encoded_encode (i := .ldVxK x) rfl, _, rfl, rfl, rfl, he.frame⟩

/-- Settles O48: FX0A leaves a waiting core, whose wait goes on through the calls until the press resolves it. -/
theorem keyWaitResolvesToKey : Obligations.KeyWaitResolvesToKey := by
  unfold Obligations.KeyWaitResolvesToKey
  intro x k s t calls ht hc hsched
  obtain rfl : s.suspend x = t := Host.Outcome.next.inj ht
  obtain ⟨u, hrun, hu⟩ := run_waitResolved (s := s.suspend x) rfl hc hsched
  exact ⟨u, hrun, hu.susp, hu.fault, hu.pc, hu.reg, hu.regs, hu.key⟩

end Sys2Proof.Machine
end

section
/-! PROOFS. Faults over whole steps and the host's calls (spec/60_exceptions.md): the fault an execute step takes, what
the other calls do to FAULT, and the effect of each call on the core. From these, O9, O16 to O18, O50 to O52 and O57. -/

namespace Sys2Proof.Machine

section
variable {s t : State}

/-! ### The fault of an execute step -/

/-- The rows of R242 for an execute step: the fetch's first, then those of the instruction fetched. -/
def ExecuteRaises (s : State) (c : FaultCause) (info : Nat) : Prop :=
  (c = .outOfRange .fetch ∧ FetchRaises s info) ∨ ∃ w, s.fetchWord = .ok w ∧ Raises (decode w) s c info

/-- In the fetch's row of the table the fetch fails: the converse of `fetchRaises_of_error`. -/
theorem fetchWord_of_fetchRaises {a : Nat} (h : FetchRaises s a) : s.fetchWord = .error a := by
  obtain ⟨hp, hpc⟩ := h
  have bad {b : Nat} (hb : 4096 ≤ b) : resolve s.cfg.oobPolicy b = none := resolve_eq_none.mpr ⟨hb, hp⟩
  obtain ⟨a0, a1, h0, h1, -⟩ | ⟨h0, e⟩ | ⟨a0, h0, h1, e⟩ := s.fetchWord_cases
  · obtain ⟨hle, -⟩ | ⟨hpc, -⟩ := hpc
    · simp [bad hle] at h0
    · simp [bad (b := s.pc.toNat + 1) (by omega)] at h1
  · have hle : 4096 ≤ s.pc.toNat := (resolve_eq_none.mp h0).1
    rw [e]; congr 1; omega
  · have hlt : ¬ 4096 ≤ s.pc.toNat := fun hle => by simp [bad hle] at h0
    rw [e]; congr 1; omega

theorem execute_of_fetchWord_error {a : Nat} (hfault : s.fault = none) (hsusp : s.susp = false)
    (h : s.fetchWord = .error a) : execute s = .next (s.recordFault (.outOfRange .fetch) a) := by
  simp [execute, raiseFault, hfault, hsusp, h]

/-- In every case of the table a running core takes the fault, and nothing else changes. -/
theorem execute_of_executeRaises {c : FaultCause} {info : Nat} (hfault : s.fault = none) (hsusp : s.susp = false)
    (h : ExecuteRaises s c info) : execute s = .next (s.recordFault c info) := by
  obtain ⟨rfl, hfetch⟩ | ⟨w, hw, hr⟩ := h
  · exact execute_of_fetchWord_error hfault hsusp (fetchWord_of_fetchRaises hfetch)
  · rw [execute_of_fetchWord hfault hsusp hw, exec_of_raises hr]

/-- An execute step takes a fault of the table, or none. -/
theorem execute_raises_or_fault_none (hfault : s.fault = none) (ht : execute s = .next t) :
    (s.susp = false ∧ ∃ c info, ExecuteRaises s c info ∧ t = s.recordFault c info) ∨ t.fault = none := by
  obtain ⟨-, e⟩ | ⟨-, hsusp, ⟨a, hw, e⟩ | ⟨w, hw, e⟩⟩ := execute_cases s <;> rw [e] at ht
  · cases ht; exact .inr hfault
  · cases ht; exact .inl ⟨hsusp, _, _, .inl ⟨rfl, fetchRaises_of_error hw⟩, rfl⟩
  · obtain ⟨c, info, hr, rfl⟩ | he := exec_effect s _ _ ht
    · exact .inl ⟨hsusp, c, info, .inr ⟨w, hw, hr⟩, rfl⟩
    · exact .inr ((he.frame.fault fault_notMem_writtenParts).trans hfault)

/-! ### The host's calls -/

theorem step_of_schedule_cons {c : HostCall} {rest : List HostCall} (h : s.schedule = c :: rest) :
    step s = hostCall c (s.setSchedule rest) := by
  simp only [step, h]

/-- A step with no call pending, or with execute as the next call, is `execute` on the state without that call. -/
theorem step_of_executes (h : s.schedule = [] ∨ s.schedule.head? = some .execute) :
    step s = execute (s.setSchedule s.schedule.tail) := by
  obtain hnil | hhead := h
  · have hs : s.setSchedule s.schedule.tail = s := by rw [hnil, List.tail_nil, ← hnil]; rfl
    rw [step_of_schedule_nil hnil, hs]
  · obtain ⟨rest, hcons⟩ := List.head?_eq_some_iff.mp hhead
    rw [step_of_schedule_cons hcons, hcons]; rfl

/-- Of the host's calls only execute and reset touch FAULT (spec/60_exceptions.md R243, R247). -/
theorem hostCall_fault {c : HostCall} (hexec : c ≠ .execute) (hreset : c ≠ .reset) (ht : hostCall c s = .next t) :
    t.fault = s.fault := by
  cases c
  case execute => exact absurd rfl hexec
  case reset => exact absurd rfl hreset
  case tick | resetKeys | clearDrawFlag | observe => cases ht; rfl
  case setKey k pressed =>
    cases ht
    rw [State.setKey_eq]
    split_ifs <;> rfl
  case load bytes =>
    cases ht
    split
    · rfl
    · exact (s.unchangedBut_load bytes).fault (by simp)

/-- No host call but execute raises a fault. -/
theorem hostCall_fault_none {c : HostCall} (hexec : c ≠ .execute) (hfault : s.fault = none)
    (ht : hostCall c s = .next t) : t.fault = none := by
  by_cases hreset : c = .reset
  · subst hreset; cases ht; rfl
  · exact (hostCall_fault hexec hreset ht).trans hfault

/-- Where no wait is to be resolved, setKey only sets the flag. -/
theorem State.setKey_of_no_wait {pressed : Bool} (h : pressed = false ∨ s.susp = false) (k : Nibble) :
    s.setKey k pressed = s.setKeyFlag k pressed := by
  rw [State.setKey_eq, if_neg]
  rintro ⟨rfl, hs⟩
  simp [hs] at h

/-- A press during a wait sets the flag and resolves the wait (spec/44_keys_timers.md R216). -/
theorem State.setKey_press_in_wait (hs : s.susp = true) (k : Nibble) :
    s.setKey k true = (s.setKeyFlag k true).resolveWait k :=
  (s.setKey_eq k true).trans (if_pos ⟨rfl, hs⟩)

/-! ### Runs of ticks -/

theorem UnchangedBut.trans {ps : List Part} {u : State} (h : UnchangedBut ps s t) (h' : UnchangedBut ps t u) :
    UnchangedBut ps s u where
  cfg := h'.cfg.trans h.cfg
  mem hn a := (h'.mem hn a).trans (h.mem hn a)
  v hn r := (h'.v hn r).trans (h.v hn r)
  i hn := (h'.i hn).trans (h.i hn)
  pc hn := (h'.pc hn).trans (h.pc hn)
  sp hn := (h'.sp hn).trans (h.sp hn)
  stack hn k hk := (h'.stack hn k hk).trans (h.stack hn k hk)
  dt hn := (h'.dt hn).trans (h.dt hn)
  st hn := (h'.st hn).trans (h.st hn)
  key hn k := (h'.key hn k).trans (h.key hn k)
  wait hn := ⟨(h'.wait hn).1.trans (h.wait hn).1, (h'.wait hn).2.trans (h.wait hn).2⟩
  draw hn := (h'.draw hn).trans (h.draw hn)
  fault hn := (h'.fault hn).trans (h.fault hn)
  disp hn p := (h'.disp hn p).trans (h.disp hn p)
  draws hn := (h'.draws hn).trans (h.draws hn)
  schedule hn := (h'.schedule hn).trans (h.schedule hn)
  outbox hn := (h'.outbox hn).trans (h.outbox hn)

theorem State.unchangedBut_tick (s : State) : UnchangedBut [.dt, .st] s s.tick := by
  constructor <;> simp [State.tick]

/-- One scheduled tick. -/
theorem step_tick {rest : List HostCall} (h : s.schedule = .tick :: rest) :
    ∃ t, step s = .next t ∧ t.dt.toNat = s.dt.toNat - 1 ∧ t.st.toNat = s.st.toNat - 1 ∧ t.schedule = rest ∧
      UnchangedBut [.dt, .st, .schedule] s t :=
  ⟨_, step_of_schedule_cons h, toNat_tickDown _, toNat_tickDown _, rfl,
    ((s.setSchedule rest).unchangedBut_tick.mono (by simp)).of_setSchedule (by simp)⟩

end

/-! ### The obligations -/

/-- Settles O16: `exec_of_raises` in the table's cases; in the others the instruction has its effect, in which FAULT is
no written part. -/
theorem instructionFaultsExactlyAsTabled : Obligations.InstructionFaultsExactlyAsTabled := by
  unfold Obligations.InstructionFaultsExactlyAsTabled
  intro i s
  refine ⟨fun c info hr => exec_of_raises hr, fun hno => ?_⟩
  obtain ⟨t, ht, he⟩ := exec_completes hno
  exact ⟨t, ht, he.frame.fault fault_notMem_writtenParts⟩

/-- Settles O17: only an execute step raises a fault, the table's, and it raises that one in every case; the table does
not see the pending calls. -/
theorem faultsExactlyAsTabled : Obligations.FaultsExactlyAsTabled := by
  unfold Obligations.FaultsExactlyAsTabled
  refine ⟨fun s t hfault h => ⟨fun r hr => ?only, fun hexec hsusp => ?always⟩, rfl⟩
  case only =>
    obtain ⟨hexec, h⟩ | ⟨c, rest, hc, -, h⟩ := step_execute_or_call h
    · obtain ⟨hsusp, c, info, htab, rfl⟩ | hnone :=
        execute_raises_or_fault_none (s := s.setSchedule s.schedule.tail) hfault h
      · obtain rfl : ⟨c, s.pc, info⟩ = r := Option.some.inj hr
        exact ⟨hexec, hsusp, rfl, rfl, htab⟩
      · exact absurd (hnone.symm.trans hr) (by simp)
    · have hnone := hostCall_fault_none (s := s.setSchedule rest) hc hfault h
      exact absurd (hnone.symm.trans hr) (by simp)
  case always =>
    have raised {c : FaultCause} {info : Nat} (htab : ExecuteRaises s c info) : t.fault = some ⟨c, s.pc, info⟩ := by
      have he := execute_of_executeRaises (s := s.setSchedule s.schedule.tail) hfault hsusp htab
      cases ((step_of_executes hexec).trans he).symm.trans h
      rfl
    exact ⟨fun a ha => raised (.inl ⟨rfl, ha⟩), fun w c info hw hr => raised (.inr ⟨w, hw, hr⟩)⟩

/-- Settles O18: a faulted core does not execute, and of the other calls only reset touches FAULT. -/
theorem onlyResetClearsFault : Obligations.OnlyResetClearsFault := by
  unfold Obligations.OnlyResetClearsFault
  intro s t r hr h
  obtain ⟨-, h⟩ | ⟨c, rest, hc, hcons, h⟩ := step_execute_or_call h
  · cases (execute_of_blocked (s := s.setSchedule s.schedule.tail) (.inl (by simp [hr]))).symm.trans h
    exact .inl hr
  · by_cases hreset : c = .reset
    · exact .inr ⟨rest, hreset ▸ hcons⟩
    · exact .inl ((hostCall_fault hc hreset h).trans hr)

/-- Settles O50, by induction on the number of ticks. -/
theorem ticksCountDown : Obligations.TicksCountDown := by
  unfold Obligations.TicksCountDown
  intro n
  induction n with
  | zero =>
    intro s rest h
    exact ⟨s, run_zero s, rfl, rfl, h, by constructor <;> simp⟩
  | succ n ih =>
    intro s rest h
    obtain ⟨t, hstep, hdt, hst, hsched, hf⟩ := step_tick (rest := List.replicate n .tick ++ rest) h
    obtain ⟨u, hrun, hdt', hst', hsched', hf'⟩ := ih t rest hsched
    exact ⟨u, (run_succ n hstep).trans hrun, by omega, by omega, hsched', hf.trans hf'⟩

/-- Settles O9: each case is one of the fetch's row of the table. -/
theorem fetchOutOfRangeFaults : Obligations.FetchOutOfRangeFaults := by
  unfold Obligations.FetchOutOfRangeFaults
  intro s hnil hfault hsusp hp
  have raised {a : Nat} (ha : FetchRaises s a) : step s = .next (s.recordFault (.outOfRange .fetch) a) :=
    (step_of_schedule_nil hnil).trans (execute_of_executeRaises hfault hsusp (.inl ⟨rfl, ha⟩))
  exact ⟨fun hle => raised ⟨hp, .inl ⟨hle, rfl⟩⟩, fun hpc => raised ⟨hp, .inr ⟨hpc, rfl⟩⟩⟩

/-- Settles O51: a press during a wait sets the flag and resolves the wait, and every other setKey sets the flag only. -/
theorem setKeyUpdatesLatchAndResolves : Obligations.SetKeyUpdatesLatchAndResolves := by
  unfold Obligations.SetKeyUpdatesLatchAndResolves
  intro s k pressed rest h
  have hk : ¬ k.toNat > 15 := by omega
  have hstep : step s = .next ((s.setSchedule rest).setKey k pressed) := by
    simp [step_of_schedule_cons h, hostCall, hk]
  by_cases hlatch : pressed = false ∨ s.susp = false
  · rw [State.setKey_of_no_wait (s := s.setSchedule rest) hlatch] at hstep
    refine ⟨_, hstep, by simp, by simp +contextual, rfl, fun _ => ?_, fun hp hs => ?_⟩
    · constructor <;> simp
    · simp [hp, hs] at hlatch
  · obtain ⟨rfl, hs⟩ : pressed = true ∧ s.susp = true := by simpa using hlatch
    rw [State.setKey_press_in_wait (s := s.setSchedule rest) hs] at hstep
    refine ⟨_, hstep, ?flag, ?others, rfl, fun hno => absurd hno hlatch, fun _ _ => ⟨rfl, rfl, rfl, ?reg, ?regs, ?frame⟩⟩
    case flag => simp [State.resolveWait]
    case others => simp +contextual [State.resolveWait]
    case reg => simpa [State.resolveWait] using Nat.lt_trans k.isLt (by decide)
    case regs => simp +contextual [State.resolveWait]
    case frame => constructor <;> simp [State.resolveWait]

/-- Settles O52: each call sets its part and is framed by the rules of the state. -/
theorem resetKeysAndClearDrawFlag : Obligations.ResetKeysAndClearDrawFlag := by
  unfold Obligations.ResetKeysAndClearDrawFlag
  intro s rest
  refine ⟨fun h => ⟨_, step_of_schedule_cons h, State.getKey_clearKeys _, rfl, ?_⟩,
    fun h => ⟨_, step_of_schedule_cons h, rfl, rfl, ?_⟩⟩
  · constructor <;> simp
  · constructor <;> simp

/-- Settles O57: both calls break the contract, and a refused call only answers. -/
theorem contractViolationsRefused : Obligations.ContractViolationsRefused := by
  unfold Obligations.ContractViolationsRefused
  intro s rest
  refine ⟨fun bytes h hlen => ?_, fun k pressed h hk => ?_⟩
  · exact (step_of_schedule_cons h).trans (congrArg _ (if_pos hlen))
  · exact (step_of_schedule_cons h).trans (congrArg _ (if_pos hk))

end Sys2Proof.Machine
end

section
/-! PROOFS. Reset, load and the parked states (spec/70_reset_and_hazards.md): what each part of the state reads as after
reset, the bytes a load puts in memory, and the first fetch after both. From these, O14, O53 to O56, O59 and O60. -/

namespace Sys2Proof.Machine

/-! ### The bytes of memory after reset -/

section
variable {c : Config}

theorem resetByte_outside_font {a : Nat} (h : a < 0x050 ∨ 0x0A0 ≤ a) : resetByte c a = 0 :=
  if_neg (by unfold fontBase fontSize; omega)

theorem resetByte_font {d : Nat} (h : d < 80) : resetByte c (0x050 + d) = fontGlyph c d := by
  have hin : fontBase ≤ 0x050 + d ∧ 0x050 + d < fontBase + fontSize := by unfold fontBase fontSize; omega
  rw [resetByte, if_pos hin]
  exact congrArg (fontGlyph c) (Nat.add_sub_cancel_left 0x050 d)

/-- The font bytes after the first two are the configured ones (spec/20_memory.md R67). -/
theorem fontGlyph_add_two {d : Nat} (h : d < 78) : fontGlyph c (2 + d) = c.fontTail[d] := by
  simp [fontGlyph, h, Nat.add_comm 2 d]

theorem resetByte_fontTail {d : Nat} (h : d < 78) : resetByte c (0x052 + d) = c.fontTail[d] :=
  calc resetByte c (0x052 + d)
      = resetByte c (0x050 + (2 + d)) := by rw [← Nat.add_assoc]
    _ = fontGlyph c (2 + d) := resetByte_font (by omega)
    _ = c.fontTail[d] := fontGlyph_add_two h

end

/-! ### The state after reset -/

section
variable (s : State)

@[simp] theorem State.readByte_resetCore (a : Nat) : s.resetCore.readByte a = resetByte s.cfg a := rfl

@[simp] theorem State.getV_resetCore (r : Nibble) : s.resetCore.getV r = 0 := by
  simp [State.getV, State.resetCore, State.reset]

@[simp] theorem State.getKey_resetCore (k : Nibble) : s.resetCore.getKey k = false := by
  simp [State.getKey, State.resetCore, State.reset]

@[simp] theorem State.getElem_resetCore_stack (k : Nat) (h : k < 16) : s.resetCore.stack[k] = 0 := by
  simp [State.resetCore, State.reset]

@[simp] theorem State.get_resetCore_disp (p : Pixel) : s.resetCore.disp.get p = false := Display.get_clear p

/-- The machine as constructed is its own reset (spec/70_reset_and_hazards.md R281). -/
theorem State.resetCore_reset : State.reset.resetCore = State.reset := rfl

theorem State.resetCore_resetCore : s.resetCore.resetCore = s.resetCore := rfl

end

/-! ### Load, and reset before it -/

section
variable {s : State} {bytes : List Byte} {rest : List HostCall}

theorem State.readByte_load {k : Nat} (hk : k < bytes.length) : (s.load bytes).readByte (0x200 + k) = bytes[k] := by
  have h := State.readByte_writeBytes s (as := List.range' progBase bytes.length) (bs := bytes) List.nodup_range'
    List.length_range' (k := k) (by simpa using hk)
  simpa [State.load, progBase] using h

theorem State.readByte_load_of_outside {a : Nat} (h : a < 0x200 ∨ 0x200 + bytes.length ≤ a) :
    (s.load bytes).readByte a = s.readByte a :=
  State.readByte_writeBytes_of_notMem s (by rw [List.mem_range'_1, progBase]; omega)

/-- A scheduled load of a sequence that fits is not refused. -/
theorem step_load (h : s.schedule = .load bytes :: rest) (hlen : bytes.length ≤ 3584) :
    step s = .next ((s.setSchedule rest).load bytes) :=
  (step_of_schedule_cons h).trans (congrArg _ (if_neg (Nat.not_lt.mpr hlen)))

/-- A scheduled reset leaves a core that runs from 0x200. -/
theorem step_reset (h : s.schedule = .reset :: rest) :
    ∃ t, step s = .next t ∧ t.pc = 0x200 ∧ t.fault = none ∧ t.susp = false ∧ t.schedule = rest :=
  ⟨_, step_of_schedule_cons h, rfl, rfl, rfl, rfl⟩

/-- The fetch at the start of a program reads its first two bytes, under either policy. -/
theorem State.fetchWord_of_pc_eq_0x200 (hpc : s.pc = 0x200) :
    s.fetchWord = .ok (wordOfBytes (s.readByte 0x200) (s.readByte 0x201)) :=
  State.fetchWord_of_resolve (by rw [hpc]; exact resolve_eq_some.mpr ⟨.inl (by decide), by decide⟩)
    (by rw [hpc]; exact resolve_eq_some.mpr ⟨.inl (by decide), by decide⟩)

end

/-! ### The parked states -/

/-- A jump to the address it stands at changes nothing. -/
theorem exec_jp_self {s : State} {nnn : Addr12} (h : s.pc = zext16 nnn) : exec (.jp nnn) s = .next s :=
  congrArg (fun pc => Host.Outcome.next (s.setPc pc)) h.symm

/-! ### The obligations -/

/-- Settles O56: the addresses written are distinct, and they are the image's. -/
theorem loadCopiesProgram : Obligations.LoadCopiesProgram := by
  unfold Obligations.LoadCopiesProgram
  intro s bytes rest h hlen
  have hf := (s.setSchedule rest).unchangedBut_load bytes
  exact ⟨_, step_load h hlen, fun k hk => State.readByte_load hk, fun a ha => State.readByte_load_of_outside ha,
    hf.schedule (by simp), (hf.mono (by simp)).of_setSchedule (by simp)⟩

/-- Settles O59: reset leaves a core that runs from 0x200, load changes its memory only, and the fetch reads there. -/
theorem loadedProgramRunsFirst : Obligations.LoadedProgramRunsFirst := by
  unfold Obligations.LoadedProgramRunsFirst
  intro s hi lo image h hlen
  obtain ⟨u, hreset, hpc, hfault, hsusp, hsched⟩ := step_reset h
  obtain ⟨t, hload, hbyte, -, hnil, hf⟩ := loadCopiesProgram u (hi :: lo :: image) [] hsched hlen
  have hpc : t.pc = 0x200 := (hf.pc (by simp)).trans hpc
  have hfault : t.fault = none := (hf.fault (by simp)).trans hfault
  have hsusp : t.susp = false := (hf.wait (by simp)).1.trans hsusp
  have hhi : t.readByte 0x200 = hi := hbyte 0 (by simp)
  have hlo : t.readByte 0x201 = lo := hbyte 1 (by simp)
  refine ⟨t, ?run, hpc, hfault, hsusp, ?first⟩
  case run => exact (run_succ 1 hreset).trans ((run_succ 0 hload).trans (run_zero t))
  case first =>
    rw [step_of_schedule_nil hnil, execute_of_fetchWord hfault hsusp (State.fetchWord_of_pc_eq_0x200 hpc), hhi, hlo]

/-- Settles O14: after reset no byte is listed and there is no fault. -/
theorem resetMeetsInv : Obligations.ResetMeetsInv := by
  unfold Obligations.ResetMeetsInv
  exact .of_fault_none rfl rfl

/-- Settles O53: memory reads as its reset value, and every other part is set by reset or carried over. -/
theorem resetGivesBaseline : Obligations.ResetGivesBaseline := by
  unfold Obligations.ResetGivesBaseline
  intro s rest h
  exact ⟨_, step_of_schedule_cons h, fun a ha => (State.readByte_resetCore _ a).trans (resetByte_outside_font ha),
    rfl, rfl, fun d hd => (State.readByte_resetCore _ (0x052 + d)).trans (resetByte_fontTail hd),
    State.getV_resetCore _, rfl, rfl, rfl, State.getElem_resetCore_stack _, rfl, rfl, State.getKey_resetCore _,
    rfl, rfl, rfl, rfl, State.get_resetCore_disp _, rfl, rfl, rfl, rfl⟩

/-- Settles O54: the constructed machine and the state after reset are both their own reset. -/
theorem resetIsIdempotent : Obligations.ResetIsIdempotent := by
  unfold Obligations.ResetIsIdempotent
  refine ⟨?constructed, fun s t rest h => ?again⟩
  case constructed => exact congrArg Host.Outcome.next State.resetCore_reset
  case again =>
    obtain rfl : (s.setSchedule rest).resetCore = t := Host.Outcome.next.inj h
    exact congrArg Host.Outcome.next (s.setSchedule rest).resetCore_resetCore

/-- Settles O55: the constructed machine is its own reset, so what reset gives it has. -/
theorem constructedStateValues : Obligations.ConstructedStateValues := by
  unfold Obligations.ConstructedStateValues
  exact ⟨rfl, rfl, rfl, rfl, rfl, State.reset.getV_resetCore, State.reset.getKey_resetCore,
    State.reset.getElem_resetCore_stack, rfl, rfl⟩

/-- Settles O60: a faulted or suspended core does not execute, and a running one performs its jump to itself. -/
theorem parkedStateIsFixed : Obligations.ParkedStateIsFixed := by
  unfold Obligations.ParkedStateIsFixed
  intro s hpark hnil
  rw [step_of_schedule_nil hnil]
  obtain ⟨-, e⟩ | ⟨hfault, hsusp, -⟩ := execute_cases s
  · exact e
  · obtain hf | hs | ⟨w, nnn, hw, hjp, hpc⟩ := hpark
    · simp [hfault] at hf
    · simp [hsusp] at hs
    · rw [execute_of_fetchWord hfault hsusp hw, hjp, exec_jp_self hpc]

end Sys2Proof.Machine
end
